-- ==== Sys2Proof/Word.lean ====
section
/-! DEFINITION. The two widths of the HEEX core: bytes (streams, buffers, the byte-remainder) and 32-bit
words (the CRC32 Checksum Engine, the sizes among the configuration registers; 00_scope.md R9, 43_crc32.md
R146, 10_state.md R40). -/

namespace Sys2Proof

/-- A byte: 8 bits, bit 0 least significant (R9). -/
abbrev Byte := BitVec 8

/-- A 32-bit unsigned word: `acc`, `crc`, `POLY`, `CRC_INIT`, `CRC_EXPECTED` (R146), `L`, `CAP`, `N` (R40). -/
abbrev Word := BitVec 32

end Sys2Proof
end

