-- ==== Sys2Proof/Config.lean ====
section
/-! DEFINITION. The implementation parameters of the HEEX core (00_scope.md R7; 10_state.md R40).
They are plain data that the machine state carries and that no rule writes. -/

namespace Sys2Proof

/-- What the iteration cap bounds (R7, R104; 90_conflicts.md C1): the read cursor `c`, or the number of
outer iterations `i`. -/
inductive CapKind where
  | CURSOR
  | ITER
deriving DecidableEq, Repr

/-- The one-bit encoding of `CAP_KIND` (R40). -/
def CapKind.code : CapKind → Nat
  | .CURSOR => 0
  | .ITER => 1

/-- The configuration registers (R7, R40). `N`, the length of the Compressed Buffer, is also one of
them; it arrives with the buffer and stands beside it in the state. -/
structure Config where
  /-- length of the Output Buffer in bytes, 32-bit unsigned (R40) -/
  L : Word
  /-- iteration cap of the decoder's outer loop, 32-bit unsigned (R40) -/
  CAP : Word
  /-- what the cap bounds -/
  CAP_KIND : CapKind
  /-- CRC polynomial, reversed form -/
  POLY : Word
  /-- initial CRC accumulator -/
  CRC_INIT : Word
  /-- checksum the decoded image must have -/
  CRC_EXPECTED : Word
  /-- the 16-byte replacement header -/
  FIXED_HEADER : Vector Byte 16
  /-- byte offset in the host file at which the Compressed Buffer starts -/
  SRC_OFFSET : Nat
  /-- the single nonzero generic-failure exit code -/
  EXIT_FAIL : Nat
deriving DecidableEq, Repr

/-- The default configuration: "the hardware as the source describes it" (R7). The value of `CAP` is
approximate in the source (R8) and `EXIT_FAIL` is any nonzero value (R169): see log 4. -/
def Config.defaults : Config where
  L := 0x40010
  CAP := 0x2E3DE
  CAP_KIND := .CURSOR
  POLY := 0xEDB88320
  CRC_INIT := 0xFFFFFFFF
  CRC_EXPECTED := 0x2A137974
  FIXED_HEADER := #v[0x4E, 0x45, 0x53, 0x1A, 0x08, 0x10, 0x50, 0x48,
                     0x00, 0x00, 0x00, 0x00, 0x00, 0x00, 0x00, 0x01]
  SRC_OFFSET := 0x12A40
  EXIT_FAIL := 1

/-- The legal ranges of the table of R7: a host can set no other configuration (`hostMove`). `L`, the words
of the CRC and the header have every value of their width (R40); `SRC_OFFSET` is the host's. -/
abbrev Config.Legal (cfg : Config) : Prop :=
  cfg.CAP.toNat ≤ 2 ^ 32 - 129 ∧ cfg.EXIT_FAIL ≠ 0

end Sys2Proof
end

