-- ==== Sys2Proof/Machine/State.lean ====
section
/-! DEFINITION. The state of the HEEX core (10_state.md R20 to R48), the reasons a step of the model can
stop, and the state after reset (R47; 70_reset_and_hazards.md R210). -/

namespace Sys2Proof.Machine

/-- A byte memory: cells at strictly rising addresses, none equal to what an unlisted address reads as
(`Memory.read` and `Memory.wf` of Machine/Ops.lean). -/
abbrev Memory := List Host.Cell

/-- `dphase`, the decoder phase: which decoder step rule is enabled (R30). -/
inductive DPhase where
  | IDLE | TOP | REFLEN | REFCOPY | LITCOPY | HALT
deriving DecidableEq, Repr

/-- `cause`, the stop cause of the decoder (R31, 60_exceptions.md R180). -/
inductive Cause where
  | NONE | FULL | CAP | UNDERFLOW | OVERRUN
deriving DecidableEq, Repr

/-- `cphase`, the phase of the CRC engine (R34). -/
inductive CPhase where
  | C_IDLE | C_LOAD | C_BIT | C_DONE
deriving DecidableEq, Repr

/-- `pphase`, the phase of the sequencer (R38). -/
inductive PPhase where
  | P_IDLE | P_LOAD | P_DECODE | P_CHECK | P_PATCH | P_WRITE | P_DONE | P_FAILED
deriving DecidableEq, Repr

/-- `result`, how a pipeline run ended (R38, R185). -/
inductive RunResult where
  | OK | READ_FAIL | MALFORMED_INPUT | CHECKSUM_MISMATCH | WRITE_FAIL | PATCH_REFUSED
deriving DecidableEq, Repr

/-- What the host has put at the core's file input in pipeline step 1 (44_pipeline.md R161). The model's
own type (log 8). -/
inductive HostFile where
  /-- the host has not answered yet -/
  | pending
  /-- the named file is missing or unreadable -/
  | unreadable
  /-- the bytes of the named file, from its byte 0 -/
  | contents (file : List Byte)
deriving DecidableEq, Repr

/-- The state tuple of R20. Counters and indices are natural numbers, as R28 allows (log 3). The last
three fields are the model's own: inputs the host has given and the core has not yet taken (log 8). -/
structure State where
  /-- the configuration registers (R40); no rule writes them -/
  cfg : Config
  /-- `CIN`, the Compressed Buffer: the bytes at indices below `N` (R42) -/
  cin : Memory
  /-- length of the Compressed Buffer, 32-bit unsigned (R7, R40, R42) -/
  N : Word
  /-- `OUT`, the Output Buffer: the bytes at indices below `cfg.L` (R43) -/
  out : Memory
  /-- read cursor, the program counter (R21) -/
  c : Nat
  /-- write cursor (R22) -/
  w : Nat
  /-- iteration counter (R23) -/
  i : Nat
  /-- control value: the control byte of the current run, read as signed through `sext8` (R24) -/
  v : Byte
  /-- distance of the current back-reference run (R25) -/
  n : Nat
  /-- run length byte of the current back-reference run (R26) -/
  len : Byte
  /-- remaining copy steps of the current run (R27) -/
  k : Nat
  /-- decoder phase (R30) -/
  dphase : DPhase
  /-- stop cause (R31) -/
  cause : Cause
  /-- CRC accumulator (R32) -/
  acc : Word
  /-- byte-remainder (R33) -/
  rem : Byte
  /-- bit counter (R34) -/
  j : Nat
  /-- data index (R35) -/
  p : Nat
  /-- CRC engine phase (R34) -/
  cphase : CPhase
  /-- checksum result (R36) -/
  crc : Word
  /-- `crc_ok` (R37) -/
  crcOk : Bool
  /-- pipeline phase (R38) -/
  pphase : PPhase
  /-- run result (R38) -/
  result : RunResult
  /-- `patch_req` as the sequencer sampled it (R39, R165) -/
  patchReq : Bool
  /-- host input of step 1: the file, not yet taken (R161) -/
  hostFile : HostFile
  /-- host input of step 4: the yes/no decision, not yet sampled (R165) -/
  hostPatch : Option Bool
  /-- host input of step 5: whether the output file could be written (R167) -/
  hostWrite : Option Bool
deriving DecidableEq, Repr

/-- Why a step stops without a next state. Every constructor is raised only where the spec says the
situation cannot arise; Sys2Proof/Safety.lean says in which states none is raised. -/
inductive Fault where
  /-- Raised by a read of `OUT` outside `[0, L)`: "cannot arise from any rule; a model should make it a
  fault" (R52). Safe. -/
  | outReadOutside
  /-- Raised by a write of `OUT` outside `[0, L)`: "cannot arise from any rule; a model should make it a
  fault" (R53). Safe. -/
  | outWriteOutside
  /-- Raised by a copy step entered with `k = 0`; the copy steps are enabled only with `k ≥ 1`
  (R91, R123, R132). Safe. -/
  | copyCounterZero
  /-- Raised by a bit step entered with `j > 7`; the bit step is enabled only with `0 ≤ j ≤ 7`
  (R143). Safe. -/
  | bitCounterRange
  /-- Raised when the decoder is in `HALT` with `cause = NONE`; R162 gives no continuation for it and
  R190 always writes a cause. Safe. -/
  | haltWithoutCause
  /-- Raised by step 1 for a file with more bytes than `N`, a 32-bit register, can count (R7, R40). The host
  has no move that supplies such a file (`hostMove`; R196 asks for the true `N`). Safe. -/
  | bufferTooLong
deriving DecidableEq, Repr

/-- Why the model gives an instruction no meaning. -/
inductive Refusal where
  /-- Raised by an arm of `exec` whose instruction has no meaning yet; no arm raises it. Safe. -/
  | notModelled (mnemonic : String)
  /-- Raised when the bytes of a whole run do not decode. No encoding is reserved (R86), so it is never
  raised. Safe. -/
  | undecodable
deriving DecidableEq, Repr

/-- The three outcomes of a step of this machine. -/
abbrev Outcome := Host.Outcome State Fault Refusal

/-- The machine right after reset (R47, R210), in the default configuration (R7). Where R47 says
'unspecified' the value is the model's (logs 1 and 2), as are the empty inputs (logs 5 and 8). -/
def State.reset : State where
  cfg := Config.defaults
  cin := []
  N := 0
  out := []
  c := 0
  w := 0
  i := 0
  v := 0
  n := 0
  len := 0
  k := 0
  dphase := .IDLE
  cause := .NONE
  acc := 0
  rem := 0
  j := 0
  p := 0
  cphase := .C_IDLE
  crc := 0
  crcOk := false
  pphase := .P_IDLE
  result := .OK
  patchReq := false
  hostFile := .pending
  hostPatch := none
  hostWrite := none

end Sys2Proof.Machine
end

