-- ==== Sys2Proof/Machine/Ops.lean ====
section
/-! DEFINITION. The named operations over the two byte memories and the registers: reads and writes of
`CIN` and `OUT` (20_memory.md R50 to R53), the decoder's stop (60_exceptions.md R190), the end of a
pipeline run (44_pipeline.md R167, R168), reset (70_reset_and_hazards.md R210). -/

namespace Sys2Proof.Machine

/-! ### Byte memories -/

/-- What an address that no cell lists reads as: the reset contents of `OUT` (R43, R47). For `CIN`,
whose `N` bytes are all given by the host, it is only the way zero bytes are written down (log 6). -/
def Memory.unlisted : Byte := 0x00

/-- The byte at an address. -/
def Memory.read : Memory → Nat → Byte
  | [], _ => Memory.unlisted
  | (x, y) :: rest, a => if a = x then y else Memory.read rest a

/-- Set the byte at an address, keeping the canonical form. -/
def Memory.write : Memory → Nat → Byte → Memory
  | [], a, b => if b = Memory.unlisted then [] else [(a, b)]
  | (x, y) :: rest, a, b =>
    if a < x then (if b = Memory.unlisted then (x, y) :: rest else (a, b) :: (x, y) :: rest)
    else if a = x then (if b = Memory.unlisted then rest else (a, b) :: rest)
    else (x, y) :: Memory.write rest a b

/-- Write a list of bytes at rising addresses, first byte first. -/
def Memory.writeBytes (m : Memory) (a : Nat) : List Byte → Memory
  | [] => m
  | b :: bs => Memory.writeBytes (m.write a b) (a + 1) bs

/-- The memory that holds these bytes from this address on and nothing else. -/
def Memory.ofBytes (a : Nat) : List Byte → Memory
  | [] => []
  | b :: bs =>
    if b = Memory.unlisted then Memory.ofBytes (a + 1) bs else (a, b) :: Memory.ofBytes (a + 1) bs

/-- The canonical form: addresses strictly rising, no cell equal to what an unlisted address reads
as. -/
def Memory.wf : Memory → Bool
  | [] => true
  | (x, y) :: rest =>
    (decide (y ≠ Memory.unlisted) && rest.all fun cell => decide (x < cell.1)) && Memory.wf rest

/-- Every cell lies below this address. -/
def Memory.below (m : Memory) (bound : Nat) : Bool := m.all fun cell => decide (cell.1 < bound)

/-! ### The access primitives of the spec -/

/-- `MemRead(CIN, a, 1)` (R51): the byte, or none where the read raises `Stop(OVERRUN)`. -/
def readCin (s : State) (a : Nat) : Option Byte := if a < s.N.toNat then some (s.cin.read a) else none

/-- `MemRead(OUT, a, 1)` (R52): the byte, or none outside `[0, L)`, where no rule reads. -/
def readOut (s : State) (a : Nat) : Option Byte := if a < s.cfg.L.toNat then some (s.out.read a) else none

/-- `MemWrite(OUT, a, 1, b)` (R53): set that byte and nothing else. -/
def writeOut (a : Nat) (b : Byte) (s : State) : Outcome :=
  if a < s.cfg.L.toNat then .next { s with out := s.out.write a b } else .fault .outWriteOutside

/-- The image: `OUT[0 .. L-1]` in increasing index order (R67, R151, R167). -/
def image (s : State) : List Byte := (List.range s.cfg.L.toNat).map s.out.read

/-! ### Stops and ends of a run: what this hardware has in place of exceptions -/

/-- `raise Stop(cause)` (R190): `cause` is written, `dphase` becomes `HALT`, nothing else changes: no
state is saved, no vector is fetched. There is no return from a stop (R192). -/
def raiseStop (why : Cause) (s : State) : State := { s with cause := why, dphase := .HALT }

/-- The end of a pipeline run by failure (R164, R168, R173): `result` is written, `pphase` becomes
`P_FAILED`; terminal. -/
def failRun (why : RunResult) (s : State) : State := { s with result := why, pphase := .P_FAILED }

/-- The end of a pipeline run by success (R167). -/
def finishRun (s : State) : State := { s with result := .OK, pphase := .P_DONE }

/-! ### Reset -/

/-- The reset values of the decoder and of `OUT` (R47), which the sequencer applies before it starts the
decoder (R162). The registers R47 leaves unspecified take the values of log 1. -/
def resetDecoder (s : State) : State :=
  { s with
    out := [], c := 0, w := 0, i := 0, v := 0, n := 0, len := 0, k := 0
    dphase := .IDLE, cause := .NONE }

/-- The reset event (R210): every piece of state takes its reset value; `CIN`, `N` and the configuration
are not affected. Of the model's own host inputs the file stays, as an input supplied before reset
(R214), and the answers to an earlier run's questions do not (R170; log 8). -/
def applyReset (s : State) : State :=
  { State.reset with cfg := s.cfg, cin := s.cin, N := s.N, hostFile := s.hostFile }

end Sys2Proof.Machine
end

