-- ==== Sys2Proof/Machine/Crc.lean ====
section
/-! DEFINITION. The CRC32 Checksum Engine (43_crc32.md R140 to R152): its step rules, and `checksum` as a
function of a byte sequence. -/

namespace Sys2Proof.Machine

/-- One bit step on the accumulator and the byte-remainder (R143, R146): the low bit of their exclusive
or is taken before either is shifted, and `POLY` goes into the already shifted accumulator. -/
def bitStep (poly : Word) (x : Word × Byte) : Word × Byte :=
  (if (x.1.getLsbD 0 ^^ x.2.getLsbD 0) then (x.1 >>> 1) ^^^ poly else x.1 >>> 1, x.2 >>> 1)

/-- This many bit steps, one after the other. -/
def bitSteps (poly : Word) : Nat → Word × Byte → Word × Byte
  | 0, x => x
  | m + 1, x => bitSteps poly m (bitStep poly x)

/-- The accumulator after the eight bit steps of one data byte (R140). -/
def crcByte (poly acc : Word) (data : Byte) : Word := (bitSteps poly 8 (acc, data)).1

/-- The accumulator after a sequence of data bytes, in increasing index order (R140). -/
def crcBytes (poly acc : Word) (data : List Byte) : Word := data.foldl (crcByte poly) acc

/-- `checksum(data)` (R140): the complement of the accumulator after all bytes. -/
def checksum (cfg : Config) (data : List Byte) : Word := ~~~ (crcBytes cfg.POLY cfg.CRC_INIT data)

/-- One shift of the byte-at-a-time form (R148). -/
def shiftStep (poly acc : Word) : Word :=
  if acc.getLsbD 0 then (acc >>> 1) ^^^ poly else acc >>> 1

/-- The byte-at-a-time form of one data byte (R148). -/
def crcByteAtOnce (poly acc : Word) (data : Byte) : Word :=
  (shiftStep poly)^[8] (acc ^^^ data.zeroExtend 32)

/-- CRC_START (R141). -/
def crcStart (s : State) : State := { s with acc := s.cfg.CRC_INIT, p := 0, cphase := .C_LOAD }

/-- CRC_FINAL (R145): the complement is fixed, no parameter. -/
def crcFinal (s : State) : State := { s with crc := ~~~ s.acc, cphase := .C_DONE }

/-- CRC_LOAD in the pipeline, where the data are `OUT[0 .. L-1]` (R142, R151): the next data byte, or
CRC_FINAL in the same step when all have been processed. -/
def crcLoad (s : State) : Outcome :=
  if s.p = s.cfg.L.toNat then .next (crcFinal s)
  else
    match readOut s s.p with
    | none => .fault .outReadOutside
    | some b => .next { s with rem := b, j := 0, cphase := .C_BIT }

/-- CRC_NEXT (R144). -/
def crcNext (s : State) : State := { s with p := s.p + 1, cphase := .C_LOAD }

/-- The registers after one bit step, `j` counted up (R143). -/
def bitDone (s : State) : State :=
  { s with
    acc := (bitStep s.cfg.POLY (s.acc, s.rem)).1
    rem := (bitStep s.cfg.POLY (s.acc, s.rem)).2
    j := s.j + 1 }

/-- CRC_BIT (R143), with CRC_NEXT in the same step after the eighth bit. It is enabled only with
`0 ≤ j ≤ 7`. -/
def crcBit (s : State) : Outcome :=
  if 7 < s.j then .fault .bitCounterRange
  else if s.j = 7 then .next (crcNext (bitDone s)) else .next (bitDone s)

end Sys2Proof.Machine
end

