-- ==== Sys2Proof/Machine/Flags.lean ====
section
/-! DEFINITION. The conditions the hardware tests. It has no flags and no condition codes, and no run
writes any (10_state.md R31); these tests are all it has in their place. -/

namespace Sys2Proof.Machine

/-- `w ≥ L`: the output is full (R102, R123, R132, R181). -/
def outputFull (s : State) : Bool := decide (s.cfg.L.toNat ≤ s.w)

/-- `cap_hit` (R104): the cursor or the iteration count has reached `CAP`, as `CAP_KIND` says. -/
def capHit (s : State) : Bool :=
  match s.cfg.CAP_KIND with
  | .CURSOR => decide (s.cfg.CAP.toNat ≤ s.c)
  | .ITER => decide (s.cfg.CAP.toNat ≤ s.i)

/-- The loop test of TOP (R102): the cause of a stop, `FULL` tested before `CAP` (R188 (a)), or none
where the decoder goes on to fetch. -/
def loopTest (s : State) : Option Cause :=
  if outputFull s then some .FULL else if capHit s then some .CAP else none

/-- `crc = CRC_EXPECTED`, the comparison of PIPE_CHECK on the full 32 bits (R163). -/
def crcMatches (s : State) : Bool := decide (s.crc = s.cfg.CRC_EXPECTED)

end Sys2Proof.Machine
end

