-- ==== Sys2Proof/Syntax.lean ====
section
/-! DEFINITION. The instructions of the HEEX core: the two runs of the compressed stream
(30_encoding.md R85), written as the notation of R89 writes them. -/

namespace Sys2Proof

/-- One stream run (R3, R85, R89). -/
inductive Instr where
  /-- `LIT b0 b1 … bm`, the literal run: copy these bytes to the output (R83, R130). -/
  | lit (bytes : List Byte)
  /-- `REF n, count`, the back-reference run: copy `count` bytes from `n` positions back in the output
  (R82, R120). -/
  | ref (n count : Nat)
deriving DecidableEq, Repr

end Sys2Proof
end

