-- ==== Sys2Proof/WellFormed.lean ====
section
/-! DEFINITION. Which terms of `Instr` are runs of the stream (30_encoding.md R84, R89). -/

namespace Sys2Proof

/-- The operand ranges of R89: `LIT` has 1 to 128 literal bytes; `REF n, count` has
`1 ≤ n ≤ 128` and `1 ≤ count ≤ 256`. -/
def Instr.wellFormed : Instr → Bool
  | .lit bytes => decide (1 ≤ bytes.length) && decide (bytes.length ≤ 128)
  | .ref n count =>
    (decide (1 ≤ n) && decide (n ≤ 128)) && (decide (1 ≤ count) && decide (count ≤ 256))

/-- The length of a run in bytes: `LIT` is its control byte and its literal bytes, `REF` is always 2
(R82, R83, R87). -/
def Instr.byteLength : Instr → Nat
  | .lit bytes => bytes.length + 1
  | .ref _ _ => 2

end Sys2Proof
end

