-- ==== Sys2Proof/Decode.lean ====
section
/-! DEFINITION. The compressed stream format (30_encoding.md): the fields of the control byte, the
decoder from bytes to runs, and the encoder back. -/

namespace Sys2Proof

/-- `sext_8` (00_scope.md R10): the signed value of a byte, -128..127. -/
def sext8 (b : Byte) : Int := if b.toNat ≤ 127 then (b.toNat : Int) else (b.toNat : Int) - 256

/-- The opcode: bit 7 of the control byte. Set, the run is a `REF`; clear, a `LIT` (R81, R85). -/
def isRef (control : Byte) : Bool := control.getLsbD 7

/-- The distance `n = -v = 256 - b` of a back-reference run from its control byte (R82, R84 (b)). -/
def refDistance (control : Byte) : Nat := 256 - control.toNat

/-- The count `len + 1` of a back-reference run from its length byte (R84 (c)). -/
def refCount (lengthByte : Byte) : Nat := lengthByte.toNat + 1

/-- The count `v + 1` of a literal run from its control byte (R84 (d)). -/
def litCount (control : Byte) : Nat := control.toNat + 1

/-- The length of a run in bytes, known from its control byte alone (R87). -/
def runLength (control : Byte) : Nat := if isRef control then 2 else litCount control + 1

/-- The control byte of `LIT` with this many literal bytes (R89). -/
def litControl (count : Nat) : Byte := BitVec.ofNat 8 (count - 1)

/-- The control byte of `REF` with distance `n` (R89). -/
def refControl (n : Nat) : Byte := BitVec.ofNat 8 (256 - n)

/-- The length byte of `REF` with this count (R89). -/
def refLengthByte (count : Nat) : Byte := BitVec.ofNat 8 (count - 1)

/-- Why a list of bytes does not begin with a whole run. No encoding is reserved (R86); a list can only
be too short. -/
inductive DecodeError where
  /-- there is no byte at all -/
  | noControlByte
  /-- a back-reference run whose length byte is missing -/
  | noLengthByte
  /-- a literal run with fewer data bytes than its control byte announces -/
  | literalsMissing
deriving DecidableEq, Repr

/-- Read one run from the front of a list of bytes, and give the rest of the list (R80 to R85). -/
def decode : List Byte → Except DecodeError (Instr × List Byte)
  | [] => .error .noControlByte
  | b :: rest =>
    if isRef b then
      match rest with
      | [] => .error .noLengthByte
      | l :: rest' => .ok (.ref (refDistance b) (refCount l), rest')
    else if rest.length < litCount b then .error .literalsMissing
    else .ok (.lit (rest.take (litCount b)), rest.drop (litCount b))

/-- The bytes of a run, in stream order: control byte first (R82, R83, R89). -/
def encode : Instr → List Byte
  | .lit bytes => litControl bytes.length :: bytes
  | .ref n count => [refControl n, refLengthByte count]

/-- The longest run: a `LIT` of 128 literal bytes (R83). -/
def longestRun : Nat := 129

/-- The bytes of an instruction given as a number, first byte least significant, padded with zero bytes
to the longest run. -/
def tableBytes (nbits w : Nat) : List Byte :=
  (List.range longestRun).map fun t =>
    if 8 * t < nbits then BitVec.ofNat 8 (w / 2 ^ (8 * t)) else 0

/-- The instruction the decoder reads from an opcode-table word of `nbits` bits. -/
def decodeTableWord (nbits w : Nat) : Option Instr :=
  match decode (tableBytes nbits w) with
  | .ok (i, _) => some i
  | .error _ => none

end Sys2Proof
end

