-- ==== Sys2Proof/Machine/Operands.lean ====
section
/-! DEFINITION. The operands of the two runs as the machine reads them: the control value in `v`, the
bytes of a run at the read cursor, and the back-reference address (20_memory.md R70; 30_encoding.md
R84). -/

namespace Sys2Proof.Machine

/-- The distance `n = -v` (R121), from the control value in `v`, as an unsigned number (R84 (b)). -/
def distance (s : State) : Nat := (-(sext8 s.v)).toNat

/-- A byte of the run that the decoder consumes at the read cursor: the operand byte, or none where the
cursor is at or beyond `N` and the read raises `Stop(OVERRUN)` (R51, R184). -/
def operandByte (s : State) (b : Byte) : Option Byte := if s.c < s.N.toNat then some b else none

/-- The back-reference read `MemRead(OUT, w - n, 1)` (R70 (3), R123). The subtraction is exact (R91): a
distance beyond the start of the buffer reads nothing. -/
def readBack (s : State) : Option Byte := if s.w < s.n then none else readOut s (s.w - s.n)

/-- The bytes of the run whose control byte is at the read cursor, as many as that byte announces (R87).
Where the stream ends inside the run the missing bytes stand as `Memory.unlisted`; the run stops with
`OVERRUN` before it uses one (log 11). -/
def runWindow (s : State) : List Byte :=
  (List.range (runLength (s.cin.read s.c))).map fun t => s.cin.read (s.c + t)

/-- The part of the stream not yet read: `CIN[c .. N-1]`. -/
def streamFrom (s : State) : List Byte :=
  (List.range (s.N.toNat - s.c)).map fun t => s.cin.read (s.c + t)

end Sys2Proof.Machine
end

