-- ==== Sys2Proof/Machine/Fetch.lean ====
section
/-! DEFINITION. The effect of fetching a control byte (40_decoder_loop.md R103) and of one copied output
byte, which both runs share. -/

namespace Sys2Proof.Machine

/-- FETCH after the read of the control byte (R103): the cursor and the iteration counter advance and
the control value is written. -/
def fetched (b : Byte) (s : State) : State := { s with c := s.c + 1, i := s.i + 1, v := b }

/-- The registers after one copied byte: `w` up, `k` down, back to TOP when the run is complete
(R123, R132). -/
def byteDone (s : State) : State :=
  { s with w := s.w + 1, k := s.k - 1, dphase := if s.k = 1 then .TOP else s.dphase }

/-- Write one copied byte at `w` and advance (the common half of R123 and R132). A copy step is enabled
only with `k ≥ 1`. -/
def copyByte (b : Byte) (s : State) : Outcome :=
  if s.k = 0 then .fault .copyCounterZero
  else
    match writeOut s.w b s with
    | .next t => .next (byteDone t)
    | .fault r => .fault r
    | .refused r => .refused r

end Sys2Proof.Machine
end

