-- ==== Sys2Proof/Machine/BackRef.lean ====
section
/-! DEFINITION. The back-reference run `REF` (41_backref_run.md R120 to R126): its step rules and its
meaning as an instruction. -/

namespace Sys2Proof.Machine

/-- REF entry (R121): `n <- -v`; a distance beyond the bytes written so far stops the decoder with
`UNDERFLOW`, the length byte unread. -/
def refEntry (s : State) : State :=
  if s.w < distance s then raiseStop .UNDERFLOW { s with n := distance s }
  else { s with n := distance s, dphase := .REFLEN }

/-- REFLEN (R122), given what the read of `CIN` at `c` answers: `len` and `k` are written, `c`
advances. -/
def refLen (src : Option Byte) (s : State) : State :=
  match src with
  | none => raiseStop .OVERRUN s
  | some b => { s with len := b, c := s.c + 1, k := b.toNat + 1, dphase := .REFCOPY }

/-- REFLEN as a step of the machine (R122): the length byte is read from `CIN` at `c`. -/
def refLenStep (s : State) : State := refLen (readCin s s.c) s

/-- REFCOPY, one copy step of a back-reference run (R123): the `FULL` test, then the read at `w - n`,
then the write at `w`. The read follows the previous step's write (R62, R216). -/
def refCopy (s : State) : Outcome :=
  if outputFull s then .next (raiseStop .FULL s)
  else
    match readBack s with
    | none => .fault .outReadOutside
    | some b => copyByte b s

/-- At most this many copy steps of a back-reference run, until the run ends or the decoder stops. -/
def refRun : Nat → State → Outcome
  | 0, s => .next s
  | m + 1, s =>
    match refCopy s with
    | .next t => if t.dphase = .REFCOPY then refRun m t else .next t
    | .fault r => .fault r
    | .refused r => .refused r

/-- The rest of a back-reference run once it has been entered: the length byte and all copy steps
(R122, R123). -/
def refRest (lengthByte : Byte) (s : State) : Outcome :=
  match operandByte s lengthByte with
  | none => .next (refLen none s)
  | some b => refRun (b.toNat + 1) (refLen (some b) s)

/-- `REF n, count` (R120): from a run boundary, the fetch of its control byte (R103), the entry with its
`UNDERFLOW` test (R121), the length byte (R122) and all its copy steps (R123). -/
def execRef (n count : Nat) (s : State) : Outcome :=
  match operandByte s (refControl n) with
  | none => .next (raiseStop .OVERRUN s)
  | some b =>
    if (refEntry (fetched b s)).dphase = .REFLEN then
      refRest (refLengthByte count) (refEntry (fetched b s))
    else .next (refEntry (fetched b s))

end Sys2Proof.Machine
end

