-- ==== Sys2Proof/Machine/Literal.lean ====
section
/-! DEFINITION. The literal run `LIT` (42_literal_run.md R130 to R134): its step rules and its meaning as
an instruction. -/

namespace Sys2Proof.Machine

/-- LIT entry (R131): `k <- v + 1`, with `v ≥ 0`, and on to the copy steps. -/
def litEntry (s : State) : State := { s with k := (sext8 s.v).toNat + 1, dphase := .LITCOPY }

/-- One copy step of a literal run (R132), given what the read of `CIN` at `c` answers: `FULL` is tested
before the literal byte is read, then `OVERRUN`; then the byte is stored as read. -/
def litCopy (src : Option Byte) (s : State) : Outcome :=
  if outputFull s then .next (raiseStop .FULL s)
  else
    match src with
    | none => .next (raiseStop .OVERRUN s)
    | some b => copyByte b { s with c := s.c + 1 }

/-- LITCOPY as a step of the machine (R132): the literal byte is read from `CIN` at `c`. -/
def litCopyStep (s : State) : Outcome := litCopy (readCin s s.c) s

/-- The copy steps of a literal run, one for each literal byte of the instruction, until the run ends or
the decoder stops. -/
def litRun : List Byte → State → Outcome
  | [], s => .next s
  | b :: bs, s =>
    match litCopy (operandByte s b) s with
    | .next t => if t.dphase = .LITCOPY then litRun bs t else .next t
    | .fault r => .fault r
    | .refused r => .refused r

/-- `LIT b0 b1 … bm` (R130): from a run boundary, the fetch of its control byte (R103), the entry (R131)
and all its copy steps (R132). -/
def execLit (bytes : List Byte) (s : State) : Outcome :=
  match operandByte s (litControl bytes.length) with
  | none => .next (raiseStop .OVERRUN s)
  | some b => litRun bytes (litEntry (fetched b s))

end Sys2Proof.Machine
end

