-- ==== Sys2Proof/Machine/Dispatch.lean ====
section
/-! DEFINITION. The meaning of every instruction: one arm per run of the stream (30_encoding.md R85). -/

namespace Sys2Proof.Machine

def exec (i : Instr) (s : State) : Host.Outcome State Fault Refusal :=
  match i with
  | .lit bytes => Sys2Proof.Machine.execLit bytes s
  | .ref n count => Sys2Proof.Machine.execRef n count s

end Sys2Proof.Machine
end

