-- ==== Sys2Proof/Machine/Loop.lean ====
section
/-! DEFINITION. The decoder's outer loop (40_decoder_loop.md R101 to R104): start, loop test, fetch and
dispatch, once with a whole run per step and once with the smaller steps of 00_scope.md R12. -/

namespace Sys2Proof.Machine

/-- START (R101). -/
def decStart (s : State) : State := { s with dphase := .TOP }

/-- One pass of the outer loop as one step: the loop test (R102), then the fetch (R103), then the whole
run at the cursor, decoded and executed (R12 allows the coarser step; log 7). -/
def runTop (s : State) : Outcome :=
  match loopTest s with
  | some why => .next (raiseStop why s)
  | none =>
    match readCin s s.c with
    | none => .next (raiseStop .OVERRUN s)
    | some _ =>
      match decode (runWindow s) with
      | .ok (i, _) => exec i s
      | .error _ => .refused .undecodable

/-- A TOP step of R12: the loop test (R102), then the fetch (R103), then the entry of the run (R121,
R131); the rest of the run is left to the steps REFLEN, REFCOPY and LITCOPY. -/
def microTop (s : State) : Outcome :=
  match loopTest s with
  | some why => .next (raiseStop why s)
  | none =>
    match readCin s s.c with
    | none => .next (raiseStop .OVERRUN s)
    | some b => .next (if sext8 b < 0 then refEntry (fetched b s) else litEntry (fetched b s))

end Sys2Proof.Machine
end

