-- ==== Sys2Proof/Machine/Pipeline.lean ====
section
/-! DEFINITION. The Extraction Pipeline (44_pipeline.md R160 to R174): the sequencer's five steps, and the
one function that says which agent acts next. -/

namespace Sys2Proof.Machine

/-- Leaving `P_IDLE`: the sequencer turns to step 1 (R160). No rule makes it wait here (R222). -/
def pipeBegin (s : State) : State := { s with pphase := .P_LOAD }

/-- What the host has put at the file input can be a Compressed Buffer: its bytes from `SRC_OFFSET` on are
no more than `N`, a 32-bit unsigned register, can count (R7, R40). -/
def fileFits (cfg : Config) (file : HostFile) : Bool :=
  match file with
  | .pending => true
  | .unreadable => true
  | .contents bytes => decide ((bytes.drop cfg.SRC_OFFSET).length < 2 ^ 32)

/-- The Compressed Buffer in its place: the bytes of the file from `SRC_OFFSET` to its end, and their
number `N`; the host's input is taken (R59, R161). A shorter file gives `N = 0`. -/
def loadBuffer (file : List Byte) (s : State) : State :=
  { s with
    cin := Memory.ofBytes 0 (file.drop s.cfg.SRC_OFFSET)
    N := BitVec.ofNat 32 (file.drop s.cfg.SRC_OFFSET).length
    hostFile := .pending }

/-- Step 1, PIPE_LOAD (R161): wait for the host; a read failure ends the run; else the buffer is loaded,
reset values are applied to the decoder and `OUT`, and step 2 begins (R162; log 10). A file beyond the
range of `N` is a fault; no host supplies one (log 21). -/
def pipeLoad (s : State) : Outcome :=
  match s.hostFile with
  | .pending => .next s
  | .unreadable => .next (failRun .READ_FAIL { s with hostFile := .pending })
  | .contents file =>
    if fileFits s.cfg (.contents file) then
      .next { resetDecoder (loadBuffer file s) with pphase := .P_DECODE }
    else .fault .bufferTooLong

/-- The end of step 2, PIPE_DECODE, once the decoder has halted (R162, R173): `OVERRUN` ends the run as
malformed input, every other cause goes on to the checksum. -/
def pipeDecoded (s : State) : Outcome :=
  match s.cause with
  | .NONE => .fault .haltWithoutCause
  | .OVERRUN => .next (failRun .MALFORMED_INPUT s)
  | .FULL => .next { s with pphase := .P_CHECK }
  | .CAP => .next { s with pphase := .P_CHECK }
  | .UNDERFLOW => .next { s with pphase := .P_CHECK }

/-- The end of step 3, PIPE_CHECK, once the engine is done (R163, R164). -/
def pipeCheck (s : State) : State :=
  if crcMatches s then { s with crcOk := true, pphase := .P_PATCH }
  else failRun .CHECKSUM_MISMATCH { s with crcOk := false }

/-- PIPE_PATCH (R166, R68): `OUT[0..15]` become the fixed header. -/
def patchHeader (s : State) : State :=
  { s with out := s.out.writeBytes 0 s.cfg.FIXED_HEADER.toList }

/-- The sequencer samples the host's decision, once (R165). -/
def samplePatch (yes : Bool) (s : State) : State := { s with patchReq := yes, hostPatch := none }

/-- Step 4 (R165, R166): wait for the host's decision; on yes patch, or refuse with `L < 16`; then step
5. -/
def pipePatch (s : State) : State :=
  match s.hostPatch with
  | none => s
  | some false => { samplePatch false s with pphase := .P_WRITE }
  | some true =>
    if s.cfg.L.toNat < 16 then failRun .PATCH_REFUSED (samplePatch true s)
    else { patchHeader (samplePatch true s) with pphase := .P_WRITE }

/-- Step 5, PIPE_WRITE (R167): wait for the host; the run ends as its report says. -/
def pipeWrite (s : State) : State :=
  match s.hostWrite with
  | none => s
  | some true => finishRun { s with hostWrite := none }
  | some false => failRun .WRITE_FAIL { s with hostWrite := none }

/-- One step of the decoder during step 2, by `dphase` (R101 to R104, R122, R123, R132), with `top` as
the step taken at the head of the outer loop. -/
def decodeStep (top : State → Outcome) (s : State) : Outcome :=
  match s.dphase with
  | .IDLE => .next (decStart s)
  | .TOP => top s
  | .REFLEN => .next (refLenStep s)
  | .REFCOPY => refCopy s
  | .LITCOPY => litCopyStep s
  | .HALT => pipeDecoded s

/-- One step of the CRC engine during step 3, by `cphase` (R141 to R145), and the comparison when it is
done (R163). -/
def checkStep (s : State) : Outcome :=
  match s.cphase with
  | .C_IDLE => .next (crcStart s)
  | .C_LOAD => crcLoad s
  | .C_BIT => crcBit s
  | .C_DONE => .next (pipeCheck s)

/-- One step of the core, by `pphase` (R160, R193). `P_DONE` and `P_FAILED` have no enabled step: they
are left only by reset (R192; log 12). -/
def coreStep (top : State → Outcome) (s : State) : Outcome :=
  match s.pphase with
  | .P_IDLE => .next (pipeBegin s)
  | .P_LOAD => pipeLoad s
  | .P_DECODE => decodeStep top s
  | .P_CHECK => checkStep s
  | .P_PATCH => .next (pipePatch s)
  | .P_WRITE => .next (pipeWrite s)
  | .P_DONE => .next s
  | .P_FAILED => .next s

/-- Put the bytes of one instruction at the read cursor, extend the Compressed Buffer to hold them, and
make the head of the outer loop the next thing the machine does. -/
def placeRun (bytes : List Byte) (s : State) : State :=
  { s with
    cin := s.cin.writeBytes s.c bytes
    N := BitVec.ofNat 32 (max s.N.toNat (s.c + bytes.length))
    pphase := .P_DECODE
    dphase := .TOP }

end Sys2Proof.Machine
end

