-- ==== Sys2Proof/Machine/Step.lean ====
section
/-! DEFINITION. The step of the core: one whole run of the stream per step while the decoder is at the
head of its loop (log 7), and the smaller steps of 00_scope.md R12 beside it. -/

namespace Sys2Proof.Machine

/-- One step of the core. -/
def step (s : State) : Host.Outcome State Fault Refusal := coreStep runTop s

/-- One step of the core in the decomposition of R12: the decoder moves one byte at a time. -/
def microStep (s : State) : Host.Outcome State Fault Refusal := coreStep microTop s

/-- The state with an instruction, given as a number of `nbits` bits and padded with zero bytes to the
longest run, at the read cursor, and the decoder about to fetch it (logs 9 and 11). -/
def State.withFetchWord (s : State) (nbits w : Nat) : State := placeRun (tableBytes nbits w) s

end Sys2Proof.Machine
end

