-- ==== Sys2Proof/Machine/BigStep.lean ====
section
/-! DEFINITION. The big-step function `decode(config, CIN)` of 40_decoder_loop.md R107, written apart
from the step rules: the output is the list of bytes written so far, last byte first. With it, what it still
gives from a state in the middle of a decode, and the image it decodes to. -/

namespace Sys2Proof.Machine

/-- What a decode returns (R107, R223): the bytes written, last first, the cursors, the iteration count
and the cause; `NONE` where the fuel ran out. -/
structure DecodeResult where
  /-- the bytes written so far, the last one first; `w` is their number -/
  written : List Byte
  /-- read cursor -/
  c : Nat
  /-- iterations begun -/
  i : Nat
  /-- stop cause -/
  cause : Cause
deriving DecidableEq, Repr

/-- The copy loop of a back-reference run (R107): `OUT[w - n]` is the `n`-th byte from the front of the
list. The Boolean says that the output filled up. -/
def bigRefCopy (L n : Nat) : Nat → List Byte → List Byte × Bool
  | 0, written => (written, false)
  | m + 1, written =>
    if L ≤ written.length then (written, true)
    else bigRefCopy L n m (written.getD (n - 1) 0 :: written)

/-- The copy loop of a literal run (R107): the output, the cursor, and the cause if it stopped. -/
def bigLitCopy (L N : Nat) (cin : Nat → Byte) : Nat → List Byte → Nat → List Byte × Nat × Cause
  | 0, written, c => (written, c, .NONE)
  | m + 1, written, c =>
    if L ≤ written.length then (written, c, .FULL)
    else if N ≤ c then (written, c, .OVERRUN)
    else bigLitCopy L N cin m (cin c :: written) (c + 1)

/-- The test of the cap on the two counters (R104). -/
def bigCapHit (cfg : Config) (c i : Nat) : Bool :=
  match cfg.CAP_KIND with
  | .CURSOR => decide (cfg.CAP.toNat ≤ c)
  | .ITER => decide (cfg.CAP.toNat ≤ i)

/-- The outer loop of R107, at most `fuel` iterations; a run takes at least one byte of `CIN`, so `N + 1`
iterations are enough. -/
def bigLoop (cfg : Config) (N : Nat) (cin : Nat → Byte) :
    Nat → List Byte → Nat → Nat → DecodeResult
  | 0, written, c, i => ⟨written, c, i, .NONE⟩
  | fuel + 1, written, c, i =>
    if cfg.L.toNat ≤ written.length then ⟨written, c, i, .FULL⟩
    else if bigCapHit cfg c i then ⟨written, c, i, .CAP⟩
    else if N ≤ c then ⟨written, c, i, .OVERRUN⟩
    else if sext8 (cin c) < 0 then
      if written.length < (-(sext8 (cin c))).toNat then ⟨written, c + 1, i + 1, .UNDERFLOW⟩
      else if N ≤ c + 1 then ⟨written, c + 1, i + 1, .OVERRUN⟩
      else
        match bigRefCopy cfg.L.toNat (-(sext8 (cin c))).toNat ((cin (c + 1)).toNat + 1) written with
        | (written', true) => ⟨written', c + 2, i + 1, .FULL⟩
        | (written', false) => bigLoop cfg N cin fuel written' (c + 2) (i + 1)
    else
      match bigLitCopy cfg.L.toNat N cin ((sext8 (cin c)).toNat + 1) written (c + 1) with
      | (written', c', .NONE) => bigLoop cfg N cin fuel written' c' (i + 1)
      | (written', c', why) => ⟨written', c', i + 1, why⟩

/-- `decode(config, CIN)` (R107). -/
def bigDecode (cfg : Config) (N : Nat) (cin : Nat → Byte) : DecodeResult :=
  bigLoop cfg N cin (N + 1) [] 0 0

/-- The output buffer of a decode: `OUT[a]`, zero where nothing was written (R107, R112). -/
def bigOut (r : DecodeResult) (a : Nat) : Byte := r.written.reverse.getD a 0

/-- The image that `CIN` decodes to, all `L` bytes: what the CRC describes and what is handed over where no
patch is made (R151, R166). It depends on the configuration, `N` and `CIN` only. -/
def decodedImage (s : State) : List Byte :=
  (List.range s.cfg.L.toNat).map (bigOut (bigDecode s.cfg s.N.toNat s.cin.read))

/-- The bytes `OUT[0 .. w-1]`, the last one first: the output so far, as the big-step function holds it. -/
def writtenSoFar (s : State) : List Byte := ((List.range s.w).map s.out.read).reverse

/-- The rest of a decode from the head of the loop, with this output and cursor (R107); `i` of at most
`N + 1` iterations have been begun. -/
def loopFrom (s : State) (written : List Byte) (c : Nat) : DecodeResult :=
  bigLoop s.cfg s.N.toNat s.cin.read (s.N.toNat + 1 - s.i) written c s.i

/-- The rest of a decode from inside a back-reference run with this many copy steps to make (R107). -/
def refFrom (s : State) (count c : Nat) : DecodeResult :=
  match bigRefCopy s.cfg.L.toNat s.n count (writtenSoFar s) with
  | (written, true) => ⟨written, c, s.i, .FULL⟩
  | (written, false) => loopFrom s written c

/-- The rest of a decode from inside a literal run with `k` copy steps to make (R107). -/
def litFrom (s : State) : DecodeResult :=
  match bigLitCopy s.cfg.L.toNat s.N.toNat s.cin.read s.k (writtenSoFar s) s.c with
  | (written, c, .NONE) => loopFrom s written c
  | (written, c, why) => ⟨written, c, s.i, why⟩

/-- What the big-step function still gives from the state of a decoder in any phase. -/
def decodeFrom (s : State) : DecodeResult :=
  match s.dphase with
  | .IDLE => loopFrom s (writtenSoFar s) s.c
  | .TOP => loopFrom s (writtenSoFar s) s.c
  | .REFLEN =>
    if s.N.toNat ≤ s.c then ⟨writtenSoFar s, s.c, s.i, .OVERRUN⟩
    else refFrom s ((s.cin.read s.c).toNat + 1) (s.c + 1)
  | .REFCOPY => refFrom s s.k s.c
  | .LITCOPY => litFrom s
  | .HALT => ⟨writtenSoFar s, s.c, s.i, s.cause⟩

end Sys2Proof.Machine
end

