-- ==== Sys2Proof/Machine/HostSide.lean ====
section
/-! DEFINITION. The host interface of the core (44_pipeline.md; 60_exceptions.md R193, R196): what the
host may do and when, and what it may see. -/

namespace Sys2Proof.Machine

/-- What the host can do to the core (R196, R210, R214). -/
inductive HostMove where
  /-- apply reset (R210) -/
  | reset
  /-- fix the configuration before the run (R40, R214 (1)) -/
  | configure (cfg : Config)
  /-- supply the named file, or report that it cannot be read (R161, R214 (2)) -/
  | supplyFile (file : HostFile)
  /-- answer the patch question with a definite yes or no (R165) -/
  | answerPatch (yes : Bool)
  /-- report whether the output file could be written (R167) -/
  | reportWrite (ok : Bool)
deriving DecidableEq, Repr

/-- The host's moves, each in the phases that leave it to the host (R40, R161, R165, R167, R193, R217).
None is the answer where the host has no such move (R217; 93_implementation_defined.md U8): also for a
configuration outside the legal ranges of R7, and for a file longer than `N` can say (R40, R196; log 21). -/
def hostMove (move : HostMove) (s : State) : Option State :=
  match move with
  | .reset => some (applyReset s)
  | .configure cfg =>
    if s.pphase = .P_IDLE ∧ cfg.Legal ∧ fileFits cfg s.hostFile = true then some { s with cfg := cfg }
    else none
  | .supplyFile file =>
    if (s.pphase = .P_IDLE ∨ s.pphase = .P_LOAD) ∧ fileFits s.cfg file = true then
      some { s with hostFile := file }
    else none
  | .answerPatch yes => if s.pphase = .P_PATCH then some { s with hostPatch := some yes } else none
  | .reportWrite ok => if s.pphase = .P_WRITE then some { s with hostWrite := some ok } else none

/-- In these phases the host owns the buffers and may read `OUT` and the status registers (R41, R193). -/
def hostOwns (s : State) : Bool :=
  decide (s.pphase = .P_WRITE) || decide (s.pphase = .P_DONE) || decide (s.pphase = .P_FAILED)

/-- The run has ended (R223). -/
def runEnded (s : State) : Bool := decide (s.pphase = .P_DONE) || decide (s.pphase = .P_FAILED)

/-- What the host gets of `OUT` (R167, R164, R196): the `L` bytes of the image where they are handed
over, and nothing from a run that failed. -/
def handOver (s : State) : Option (List Byte) :=
  if s.pphase = .P_WRITE ∨ s.pphase = .P_DONE then some (image s) else none

/-- The exit code of an ended run (R169). -/
def exitCode (s : State) : Option Nat :=
  if runEnded s then some (if s.result = .OK then 0 else s.cfg.EXIT_FAIL) else none

/-- The numeric codes of the stop causes (R180). -/
def causeCode : Cause → Nat
  | .NONE => 0
  | .FULL => 1
  | .CAP => 2
  | .UNDERFLOW => 3
  | .OVERRUN => 4

/-- The numeric codes of the run results (R185). -/
def resultCode : RunResult → Nat
  | .OK => 0
  | .READ_FAIL => 1
  | .MALFORMED_INPUT => 2
  | .CHECKSUM_MISMATCH => 3
  | .WRITE_FAIL => 4
  | .PATCH_REFUSED => 5

end Sys2Proof.Machine
end

