-- ==== Sys2Proof/Safety.lean ====
section
/-! DEFINITION. The terms claims about the core are made in: running several steps, the states that can
be reached, and the invariants of the three agents (10_state.md R29, R41; 60_exceptions.md R180 to R196;
70_reset_and_hazards.md R222). -/

namespace Sys2Proof.Machine

/-- This many steps of a step function, ending at the first fault or refusal. -/
def runSteps (f : State → Outcome) : Nat → State → Outcome
  | 0, s => .next s
  | m + 1, s =>
    match f s with
    | .next t => runSteps f m t
    | .fault r => .fault r
    | .refused r => .refused r

/-- The states a machine can be in: reset, then steps of the core and moves of the host in any order
(R196, R210). -/
inductive Reachable : State → Prop where
  | reset : Reachable State.reset
  | step (s t : State) : Reachable s → step s = .next t → Reachable t
  | host (s t : State) (move : HostMove) : Reachable s → hostMove move s = some t → Reachable t

/-- The core waits for the host: in steps 1, 4 and 5 only (R222). -/
def waitsForHost (s : State) : Bool :=
  (decide (s.pphase = .P_LOAD) && decide (s.hostFile = .pending))
    || (decide (s.pphase = .P_PATCH) && decide (s.hostPatch = none))
    || (decide (s.pphase = .P_WRITE) && decide (s.hostWrite = none))

/-- The bound on the read cursor with `CAP_KIND = CURSOR` (R29 (c), R110), in each phase of the
decoder: a run that begins below the cap is completed. -/
def cursorBound (s : State) : Prop :=
  match s.dphase with
  | .REFLEN => s.c ≤ s.cfg.CAP.toNat
  | .REFCOPY => s.c ≤ s.cfg.CAP.toNat + 1
  | .LITCOPY => s.c + s.k ≤ s.cfg.CAP.toNat + 128
  | .IDLE => s.c ≤ s.cfg.CAP.toNat + 128
  | .TOP => s.c ≤ s.cfg.CAP.toNat + 128
  | .HALT => s.c ≤ s.cfg.CAP.toNat + 128

/-- What holds of the decoder's registers and of the two buffers in every state a run reaches (R22, R29,
R41, R180, R181). -/
structure DecoderInv (s : State) : Prop where
  /-- `CIN` is in canonical form and has no byte at or beyond `N` -/
  cinWf : s.cin.wf = true
  cinBelow : s.cin.below s.N.toNat = true
  /-- `OUT` is in canonical form and has no byte at or beyond `L` (R53, R112) -/
  outWf : s.out.wf = true
  outBelow : s.out.below s.cfg.L.toNat = true
  /-- until the patch, bytes at or beyond `w` still hold their reset value (R22) -/
  unwritten : s.pphase = .P_WRITE ∨ s.pphase = .P_DONE ∨ s.pphase = .P_FAILED ∨
    s.out.below s.w = true
  /-- R29 (a) -/
  wRange : s.w ≤ s.cfg.L.toNat
  /-- R29 (b) -/
  cRange : s.c ≤ s.N.toNat
  /-- R29 (c) -/
  cursor : s.cfg.CAP_KIND = .CURSOR → cursorBound s
  /-- R29 (d) -/
  iRange : s.i ≤ s.c
  iCap : s.cfg.CAP_KIND = .ITER → s.i ≤ s.cfg.CAP.toNat
  /-- the ranges of R25, R27 and R29 (f); that the registers lie in them right after reset, where R47 leaves
  them unspecified, is the model's choice (log 1) -/
  nRange : s.n ≤ 128
  kRange : s.k ≤ 256
  /-- R29 (e) and the enabling conditions of the step rules (R122, R123, R132) -/
  refLen : s.dphase = .REFLEN → 1 ≤ s.n ∧ s.n ≤ s.w
  refCopy : s.dphase = .REFCOPY → 1 ≤ s.n ∧ s.n ≤ s.w ∧ 1 ≤ s.k
  litCopy : s.dphase = .LITCOPY → 1 ≤ s.k ∧ s.k ≤ 128
  /-- the decoder has a cause exactly when it has halted (R31, R190) -/
  halted : s.dphase = .HALT ↔ s.cause ≠ .NONE
  /-- what each cause records (R180, R181) -/
  full : s.cause = .FULL → s.w = s.cfg.L.toNat
  cap : s.cause = .CAP → capHit s = true ∧ s.w < s.cfg.L.toNat
  underflow : s.cause = .UNDERFLOW → s.w < s.n
  overrun : s.cause = .OVERRUN → s.c = s.N.toNat

/-- The accumulator of the CRC engine in the middle of a checksum (R140 to R145): the bytes before `p`
have been processed, and of the byte at `p` the first `j` bits. -/
def accumulated (s : State) : Prop :=
  match s.cphase with
  | .C_IDLE => True
  | .C_LOAD => s.acc = crcBytes s.cfg.POLY s.cfg.CRC_INIT ((image s).take s.p)
  | .C_BIT =>
    (bitSteps s.cfg.POLY (8 - s.j) (s.acc, s.rem)).1
      = crcBytes s.cfg.POLY s.cfg.CRC_INIT ((image s).take (s.p + 1))
  | .C_DONE => s.crc = checksum s.cfg (image s)

/-- The image that is handed over, once step 4 is done (R165, R166, R196): the register `crc` holds the
checksum of the decoded image, and the image is the decoded one, unpatched, or patched in its first 16 bytes
and nowhere else. -/
def handedImage (s : State) : Prop :=
  s.crc = checksum s.cfg (decodedImage s) ∧
    if s.patchReq then
      16 ≤ s.cfg.L.toNat ∧ image s = s.cfg.FIXED_HEADER.toList ++ (decodedImage s).drop 16
    else image s = decodedImage s

/-- What holds of the CRC engine and of the sequencer in every state a run reaches (R34, R35, R41, R107,
R160, R162 to R168, R173, R185). -/
structure PipelineInv (s : State) : Prop where
  /-- what the host has supplied can be counted by `N` (R7, R40; `fileFits`) -/
  pending : fileFits s.cfg s.hostFile = true
  /-- the range of the bit counter (R34); right after reset, where R47 leaves it unspecified, it is the
  model's choice (log 1) -/
  jRange : s.j ≤ 8
  jBit : s.cphase = .C_BIT → s.j ≤ 7 ∧ s.p < s.cfg.L.toNat
  /-- the width of the data index, whatever it holds, and its range once the engine has written it (R35,
  R41, R47) -/
  pWidth : s.p < 2 ^ 32
  pRange : s.cphase ≠ .C_IDLE → s.p ≤ s.cfg.L.toNat
  /-- before the checksum the engine is idle and after it done (R160, R163) -/
  engineIdle : s.pphase = .P_IDLE ∨ s.pphase = .P_LOAD ∨ s.pphase = .P_DECODE → s.cphase = .C_IDLE
  engineBusy : s.cphase = .C_LOAD ∨ s.cphase = .C_BIT → s.pphase = .P_CHECK
  sums : s.pphase = .P_CHECK ∨ s.pphase = .P_PATCH → accumulated s
  /-- before step 2 the decoder has its reset values (R162, R210) -/
  fresh : s.pphase = .P_IDLE ∨ s.pphase = .P_LOAD →
    s.dphase = .IDLE ∧ s.cause = .NONE ∧ s.c = 0 ∧ s.w = 0 ∧ s.i = 0
  /-- from the start of step 2 until the patch the decode is on its way to what `decode(config, CIN)` gives
  (R107) -/
  decoding : s.pphase = .P_DECODE ∨ s.pphase = .P_CHECK ∨ s.pphase = .P_PATCH →
    decodeFrom s = bigDecode s.cfg s.N.toNat s.cin.read
  /-- after step 2 the decoder has stopped, and not with `OVERRUN` (R162, R173) -/
  decoded : s.pphase = .P_CHECK ∨ s.pphase = .P_PATCH ∨ s.pphase = .P_WRITE ∨ s.pphase = .P_DONE →
    s.dphase = .HALT ∧ s.cause ≠ .OVERRUN
  /-- after step 3 the checksum has been found correct (R163) -/
  checked : s.pphase = .P_PATCH ∨ s.pphase = .P_WRITE ∨ s.pphase = .P_DONE →
    s.cphase = .C_DONE ∧ s.crcOk = true ∧ s.crc = s.cfg.CRC_EXPECTED
  handed : s.pphase = .P_WRITE ∨ s.pphase = .P_DONE → handedImage s
  /-- how a run ended (R164, R166, R167, R173) -/
  done : s.pphase = .P_DONE → s.result = .OK
  failed : s.pphase = .P_FAILED → s.result ≠ .OK
  malformed : s.pphase = .P_FAILED → s.result = .MALFORMED_INPUT → s.cause = .OVERRUN
  mismatch : s.pphase = .P_FAILED → s.result = .CHECKSUM_MISMATCH →
    s.crcOk = false ∧ s.crc ≠ s.cfg.CRC_EXPECTED
  refusedPatch : s.pphase = .P_FAILED → s.result = .PATCH_REFUSED → s.cfg.L.toNat < 16

/-- The invariant of the whole core. -/
structure Inv (s : State) : Prop where
  decoder : DecoderInv s
  pipeline : PipelineInv s

end Sys2Proof.Machine
end

