-- ==== Sys2Proof/Certificates/Slice0/Obligations.lean ====
section
/-! DEFINITION. The statements about the HEEX core that are to be proved. Each is listed in
OBLIGATIONS.json with the rules of spec/ it formalises. -/

open Sys2Proof Sys2Proof.Machine

/-! ### The stream format -/

/-- Runs written out from the tables of R82 to R84 and the examples of R84 and R89. -/
def Obligations.KnownRunsDecode : Prop :=
  decode [0x02, 0x10, 0x20, 0x30, 0x99] = .ok (.lit [0x10, 0x20, 0x30], [0x99]) ∧
  decode [0xFE, 0x01] = .ok (.ref 2 2, []) ∧
  decode [0x01, 0xAA, 0xBB] = .ok (.lit [0xAA, 0xBB], []) ∧
  decode [0x80, 0xFF] = .ok (.ref 128 256, []) ∧
  decode [0xFF, 0x00] = .ok (.ref 1 1, []) ∧
  decode [0x00, 0xFF] = .ok (.lit [0xFF], [])

/-- R81, and the length of each run: the control byte alone tells the run and its length; every
control byte begins a defined run, and a list of bytes is rejected only where it is too short. -/
def Obligations.EveryControlByteBeginsARun : Prop :=
  ∀ (b : Byte) (tail : List Byte),
    (b.toNat ≤ 0x7F →
      sext8 b = b.toNat ∧
      (b.toNat + 1 ≤ tail.length →
        decode (b :: tail)
          = .ok (.lit (tail.take (b.toNat + 1)), tail.drop (b.toNat + 1))) ∧
      (tail.length < b.toNat + 1 → decode (b :: tail) = .error .literalsMissing)) ∧
    (0x80 ≤ b.toNat →
      sext8 b = (b.toNat : Int) - 256 ∧
      (∀ l rest, tail = l :: rest →
        decode (b :: tail) = .ok (.ref (256 - b.toNat) (l.toNat + 1), rest)) ∧
      (tail = [] → decode (b :: tail) = .error .noLengthByte))

/-- Decode and encode agree, for every well-formed run and whatever follows it. -/
def Obligations.EncodedRunDecodesToItself : Prop :=
  ∀ (i : Instr) (rest : List Byte), i.wellFormed = true →
    decode (encode i ++ rest) = .ok (i, rest)

/-- What the decoder answers is well formed, and its encoding is what was read. -/
def Obligations.DecodedRunEncodesToWhatWasRead : Prop :=
  ∀ (bs : List Byte) (i : Instr) (rest : List Byte), decode bs = .ok (i, rest) →
    i.wellFormed = true ∧ encode i ++ rest = bs

/-! ### Configuration, reset, memory -/

/-- What reset leaves, from any state (R210); `CIN`, `N` and the configuration are not affected. The last
clause says that the model's state after reset is what its reset event leaves of it. That clause equates
whole states, and so rests on the model's values too: those of the registers R47 leaves unspecified (`v`,
`n`, `len`, `k`, `acc`, `rem`, `j`, `p`, `crc` log 1, `crc_ok`, `result`, `patch_req` log 2) and of the
host's pending answers (log 8). The other clauses speak of none of them. -/
def Obligations.ResetLeavesTheStatedValues : Prop :=
  ∀ s : State,
    (∀ a, (applyReset s).out.read a = 0x00) ∧
    (applyReset s).c = 0 ∧ (applyReset s).w = 0 ∧ (applyReset s).i = 0 ∧
    (applyReset s).dphase = .IDLE ∧ (applyReset s).cause = .NONE ∧
    (applyReset s).cphase = .C_IDLE ∧ (applyReset s).pphase = .P_IDLE ∧
    (applyReset s).cin = s.cin ∧ (applyReset s).N = s.N ∧ (applyReset s).cfg = s.cfg ∧
    State.reset = applyReset State.reset

/-- A write of `OUT` sets one byte and changes nothing else, with the fault that the spec asks a
model for (20_memory.md section 1). -/
def Obligations.OutWriteSetsOneByte : Prop :=
  ∀ (a : Nat) (b : Byte) (s : State), s.out.wf = true →
    (a < s.cfg.L.toNat →
      ∃ m : Memory, writeOut a b s = .next { s with out := m } ∧ m.read a = b ∧
        ∀ x, x ≠ a → m.read x = s.out.read x) ∧
    (s.cfg.L.toNat ≤ a → writeOut a b s = .fault .outWriteOutside)

/-! ### The step rules of the decoder -/

/-- R101: START. -/
def Obligations.StartTurnsToTheLoop : Prop :=
  ∀ s : State, s.pphase = .P_DECODE → s.dphase = .IDLE → step s = .next { s with dphase := .TOP }

/-- The stops at the head of the loop, in their order, as steps of the core. (That the core's step
takes a whole run where nothing stops is the model's choice, log 7.) -/
def Obligations.LoopTestStopsInOrder : Prop :=
  ∀ s : State, s.pphase = .P_DECODE → s.dphase = .TOP →
    (s.cfg.L.toNat ≤ s.w → step s = .next { s with cause := .FULL, dphase := .HALT }) ∧
    (s.w < s.cfg.L.toNat → s.cfg.CAP_KIND = .CURSOR → s.cfg.CAP.toNat ≤ s.c →
      step s = .next { s with cause := .CAP, dphase := .HALT }) ∧
    (s.w < s.cfg.L.toNat → s.cfg.CAP_KIND = .ITER → s.cfg.CAP.toNat ≤ s.i →
      step s = .next { s with cause := .CAP, dphase := .HALT }) ∧
    (s.w < s.cfg.L.toNat → (s.cfg.CAP_KIND = .CURSOR → s.c < s.cfg.CAP.toNat) →
      (s.cfg.CAP_KIND = .ITER → s.i < s.cfg.CAP.toNat) → s.N.toNat ≤ s.c →
      step s = .next { s with cause := .OVERRUN, dphase := .HALT })

/-- R102 with R103, R121 and R131, the whole TOP step in the decomposition of R12: the loop test, the
fetch of the control byte, the dispatch on its sign and the entry of the run. -/
def Obligations.HeadOfLoopTestsThenFetches : Prop :=
  ∀ s : State, s.pphase = .P_DECODE → s.dphase = .TOP →
    (s.cfg.L.toNat ≤ s.w → microStep s = .next { s with cause := .FULL, dphase := .HALT }) ∧
    (s.w < s.cfg.L.toNat → capHit s = true →
      microStep s = .next { s with cause := .CAP, dphase := .HALT }) ∧
    (s.w < s.cfg.L.toNat → capHit s = false → s.N.toNat ≤ s.c →
      microStep s = .next { s with cause := .OVERRUN, dphase := .HALT }) ∧
    (s.w < s.cfg.L.toNat → capHit s = false → s.c < s.N.toNat → ∀ b, b = s.cin.read s.c →
      (0 ≤ sext8 b → ∀ count : Nat, (count : Int) = sext8 b + 1 →
        microStep s = .next
          { s with c := s.c + 1, i := s.i + 1, v := b, k := count, dphase := .LITCOPY }) ∧
      (sext8 b < 0 → ∀ n : Nat, (n : Int) = -(sext8 b) →
        (n ≤ s.w →
          microStep s = .next
            { s with c := s.c + 1, i := s.i + 1, v := b, n := n, dphase := .REFLEN }) ∧
        (s.w < n →
          microStep s = .next
            { s with
              c := s.c + 1, i := s.i + 1, v := b, n := n
              cause := .UNDERFLOW, dphase := .HALT })))

/-- R122: the length byte, unsigned. -/
def Obligations.LengthByteIsRead : Prop :=
  ∀ s : State, s.pphase = .P_DECODE → s.dphase = .REFLEN →
    (s.c < s.N.toNat →
      step s = .next
        { s with
          len := s.cin.read s.c, c := s.c + 1, k := (s.cin.read s.c).toNat + 1
          dphase := .REFCOPY }) ∧
    (s.N.toNat ≤ s.c → step s = .next { s with cause := .OVERRUN, dphase := .HALT })

/-- R123: one copy step of a back-reference run. -/
def Obligations.RefCopyMovesOneByte : Prop :=
  ∀ s : State, s.pphase = .P_DECODE → s.dphase = .REFCOPY → s.out.wf = true → 1 ≤ s.k →
    s.n ≤ s.w →
    (s.cfg.L.toNat ≤ s.w → step s = .next { s with cause := .FULL, dphase := .HALT }) ∧
    (s.w < s.cfg.L.toNat →
      ∃ m : Memory,
        step s = .next
          { s with
            out := m, w := s.w + 1, k := s.k - 1
            dphase := if s.k = 1 then .TOP else .REFCOPY } ∧
        m.read s.w = s.out.read (s.w - s.n) ∧ ∀ a, a ≠ s.w → m.read a = s.out.read a)

/-- R132: one copy step of a literal run; `FULL` is tested before the byte is read. -/
def Obligations.LitCopyMovesOneByte : Prop :=
  ∀ s : State, s.pphase = .P_DECODE → s.dphase = .LITCOPY → s.out.wf = true → 1 ≤ s.k →
    (s.cfg.L.toNat ≤ s.w → step s = .next { s with cause := .FULL, dphase := .HALT }) ∧
    (s.w < s.cfg.L.toNat → s.N.toNat ≤ s.c →
      step s = .next { s with cause := .OVERRUN, dphase := .HALT }) ∧
    (s.w < s.cfg.L.toNat → s.c < s.N.toNat →
      ∃ m : Memory,
        step s = .next
          { s with
            out := m, c := s.c + 1, w := s.w + 1, k := s.k - 1
            dphase := if s.k = 1 then .TOP else .LITCOPY } ∧
        m.read s.w = s.cin.read s.c ∧ ∀ a, a ≠ s.w → m.read a = s.out.read a)

/-- A step that stops the decoder writes no byte of `OUT` and leaves `w` and `k` as they were when the
condition was tested (60_exceptions.md section 4). -/
def Obligations.StoppingStepWritesNothing : Prop :=
  ∀ s t : State, s.pphase = .P_DECODE → s.dphase ≠ .HALT → microStep s = .next t →
    t.dphase = .HALT →
    t.out = s.out ∧ t.w = s.w ∧ t.k = s.k ∧ t.cause ≠ .NONE ∧
      t = { s with c := t.c, i := t.i, v := t.v, n := t.n, cause := t.cause, dphase := .HALT }

/-- A stop is not resumed and an ended run not retried (R192). Choices and readings of the model stand in
it: that a step of an ended run is answered, and changes nothing, is log 12; that a halted decoder is also
left in `P_LOAD`, where the step that takes the file applies the reset values of step 2, is log 10; and that
after the end of a run the host has no move but reset is log 18, since R192 says only that reset alone leaves
these phases (what the reset event does to the host's pending answers is log 8). -/
def Obligations.StopsAreNotResumed : Prop :=
  ∀ s : State,
    (∀ t, s.pphase = .P_DONE ∨ s.pphase = .P_FAILED → step s = .next t →
      t.pphase = s.pphase ∧ t.result = s.result ∧ t.dphase = s.dphase) ∧
    (∀ t, s.dphase = .HALT → s.pphase ≠ .P_LOAD → step s = .next t →
      t.dphase = .HALT ∧ t.cause = s.cause ∧ t.c = s.c ∧ t.w = s.w ∧ t.i = s.i) ∧
    (∀ move t, s.pphase = .P_DONE ∨ s.pphase = .P_FAILED → hostMove move s = some t →
      t = applyReset s)

/-! ### The two runs as instructions -/

/-- A step at the head of the loop runs the decoded instruction. That one step takes the whole run
is the model's choice (log 7). -/
def Obligations.StepRunsTheDecodedInstruction : Prop :=
  ∀ (s : State) (i : Instr) (rest : List Byte), s.pphase = .P_DECODE → s.dphase = .TOP →
    s.w < s.cfg.L.toNat → capHit s = false → i.wellFormed = true →
    decode (streamFrom s) = .ok (i, rest) → step s = exec i s

/-- Whatever the stream holds, and wherever it ends, the step at the head of the loop runs the
well-formed instruction that the control byte begins; no state makes it refuse. Three choices of the
model stand in it: that one step takes the whole run (log 7), that the bytes decoded are padded with 0x00
where the stream ends inside the run (log 11, no padded byte is used), and that bytes which do not decode
would be refused (log 20, none are). -/
def Obligations.EveryFetchRunsAnInstruction : Prop :=
  ∀ s : State,
    (s.pphase = .P_DECODE → s.dphase = .TOP → s.w < s.cfg.L.toNat → capHit s = false → s.c < s.N.toNat →
      ∃ i : Instr, i.wellFormed = true ∧ decode (runWindow s) = .ok (i, []) ∧
        step s = exec i s) ∧
    (∀ r, step s ≠ .refused r) ∧ (∀ r, microStep s ≠ .refused r)

/-- A literal run with room for all its bytes completes. -/
def Obligations.LitRunCompletes : Prop :=
  ∀ (bytes : List Byte) (s : State), (Instr.lit bytes).wellFormed = true → s.out.wf = true →
    s.c + 1 + bytes.length ≤ s.N.toNat → s.w + bytes.length ≤ s.cfg.L.toNat →
    ∃ m : Memory,
      exec (.lit bytes) s = .next
        { s with
          out := m, c := s.c + (1 + bytes.length), w := s.w + bytes.length, i := s.i + 1
          v := BitVec.ofNat 8 (bytes.length - 1), k := 0, dphase := .TOP } ∧
      ∀ a, m.read a
        = if s.w ≤ a ∧ a < s.w + bytes.length then bytes.getD (a - s.w) 0 else s.out.read a

/-- R130 and R103, every case of a literal run: how far it gets, what it leaves, and why it stops. -/
def Obligations.LitRunCopiesUntilItEndsOrStops : Prop :=
  ∀ (bytes : List Byte) (s : State), (Instr.lit bytes).wellFormed = true → s.out.wf = true →
    (s.N.toNat ≤ s.c →
      exec (.lit bytes) s = .next { s with cause := .OVERRUN, dphase := .HALT }) ∧
    (s.c < s.N.toNat →
      ∀ done, done = min bytes.length (min (s.cfg.L.toNat - s.w) (s.N.toNat - (s.c + 1))) →
      ∃ m : Memory,
        exec (.lit bytes) s = .next
          { s with
            out := m, c := s.c + (1 + done), w := s.w + done, i := s.i + 1
            v := BitVec.ofNat 8 (bytes.length - 1), k := bytes.length - done
            dphase := if done = bytes.length then .TOP else .HALT
            cause := if done = bytes.length then s.cause
              else if s.cfg.L.toNat - s.w ≤ s.N.toNat - (s.c + 1) then .FULL else .OVERRUN } ∧
        ∀ a, m.read a
          = if s.w ≤ a ∧ a < s.w + done then bytes.getD (a - s.w) 0 else s.out.read a)

/-- A back-reference run with room for all its bytes completes, and each byte it writes is
the byte `n` positions before it in the output as it then stands. -/
def Obligations.RefRunCompletes : Prop :=
  ∀ (n count : Nat) (s : State), (Instr.ref n count).wellFormed = true → s.out.wf = true →
    n ≤ s.w → s.c + 2 ≤ s.N.toNat → s.w + count ≤ s.cfg.L.toNat →
    ∃ m : Memory,
      exec (.ref n count) s = .next
        { s with
          out := m, c := s.c + 2, w := s.w + count, i := s.i + 1
          v := BitVec.ofNat 8 (256 - n), n := n, len := BitVec.ofNat 8 (count - 1), k := 0
          dphase := .TOP } ∧
      (∀ a, s.w ≤ a → a < s.w + count → m.read a = m.read (a - n)) ∧
      (∀ a, a < s.w ∨ s.w + count ≤ a → m.read a = s.out.read a)

/-- R120 and R103, every case of a back-reference run: how far it gets, what it leaves, and why it
stops. -/
def Obligations.RefRunCopiesUntilItEndsOrStops : Prop :=
  ∀ (n count : Nat) (s : State), (Instr.ref n count).wellFormed = true → s.out.wf = true →
    (s.N.toNat ≤ s.c →
      exec (.ref n count) s = .next { s with cause := .OVERRUN, dphase := .HALT }) ∧
    (s.c < s.N.toNat → s.w < n →
      exec (.ref n count) s = .next
        { s with
          c := s.c + 1, i := s.i + 1, v := BitVec.ofNat 8 (256 - n), n := n
          cause := .UNDERFLOW, dphase := .HALT }) ∧
    (s.c + 1 = s.N.toNat → n ≤ s.w →
      exec (.ref n count) s = .next
        { s with
          c := s.c + 1, i := s.i + 1, v := BitVec.ofNat 8 (256 - n), n := n
          cause := .OVERRUN, dphase := .HALT }) ∧
    (s.c + 1 < s.N.toNat → n ≤ s.w → ∀ done, done = min count (s.cfg.L.toNat - s.w) →
      ∃ m : Memory,
        exec (.ref n count) s = .next
          { s with
            out := m, c := s.c + 2, w := s.w + done, i := s.i + 1
            v := BitVec.ofNat 8 (256 - n), n := n, len := BitVec.ofNat 8 (count - 1)
            k := count - done
            dphase := if done = count then .TOP else .HALT
            cause := if done = count then s.cause else .FULL } ∧
        (∀ a, s.w ≤ a → a < s.w + done → m.read a = m.read (a - n)) ∧
        (∀ a, a < s.w ∨ s.w + done ≤ a → m.read a = s.out.read a))

/-- The closed form of the copy that the spec derives in 41_backref_run.md section 3: the last `n`
bytes are repeated cyclically, as many as are copied. -/
def Obligations.RefRunRepeatsThePattern : Prop :=
  ∀ (n count : Nat) (s t : State), (Instr.ref n count).wellFormed = true → s.out.wf = true →
    n ≤ s.w → s.c + 1 < s.N.toNat → exec (.ref n count) s = .next t →
    t.w = s.w + min count (s.cfg.L.toNat - s.w) ∧
    ∀ x, x < t.w - s.w → t.out.read (s.w + x) = s.out.read (s.w - n + x % n)

/-- Every instruction answers a next state, in every state: no run faults and none is refused. For a
well-formed run this is R86; what a term outside the ranges of R84 and R89 answers, which no bytes decode
to, is the model's choice (log 19). -/
def Obligations.EveryRunAnswersANextState : Prop :=
  ∀ (i : Instr) (s : State), ∃ t, exec i s = .next t

/-- The frame of both runs: the configuration, `CIN`, `N`, the CRC engine, the
sequencer and the host's inputs are unchanged; a literal run leaves `n` and `len`; `OUT` is unchanged
outside `[w, w')`; the cursors only grow, `c` by at most the longest run. -/
def Obligations.RunsChangeOnlyDecoderState : Prop :=
  ∀ (i : Instr) (s t : State), i.wellFormed = true → s.out.wf = true → exec i s = .next t →
    t = { s with
          out := t.out, c := t.c, w := t.w, i := t.i, v := t.v, n := t.n, len := t.len, k := t.k
          dphase := t.dphase, cause := t.cause } ∧
    (∀ bytes, i = .lit bytes → t.n = s.n ∧ t.len = s.len) ∧
    (t.dphase = .TOP ∨ t.dphase = .HALT) ∧ (t.dphase = .TOP → t.cause = s.cause) ∧
    (∀ a, a < s.w ∨ t.w ≤ a → t.out.read a = s.out.read a) ∧
    s.c ≤ t.c ∧ t.c ≤ s.c + i.byteLength ∧ s.w ≤ t.w ∧ s.i ≤ t.i ∧ t.i ≤ s.i + 1

/-- The output does not depend on how literal bytes are split into runs (30_encoding.md section 6). -/
def Obligations.SplitLiteralRunsWriteTheSame : Prop :=
  ∀ (xs ys : List Byte) (s t u r : State), (Instr.lit (xs ++ ys)).wellFormed = true →
    xs ≠ [] → ys ≠ [] → s.c + 2 + (xs ++ ys).length ≤ s.N.toNat →
    s.w + (xs ++ ys).length ≤ s.cfg.L.toNat →
    exec (.lit (xs ++ ys)) s = .next r → exec (.lit xs) s = .next t →
    exec (.lit ys) t = .next u →
    u.out = r.out ∧ u.w = r.w ∧ u.c = r.c + 1 ∧ u.i = r.i + 1 ∧ u.dphase = r.dphase

/-! ### Whole decodes -/

/-- R12: a whole run in one step is what the smaller steps of the spec do one after the other. -/
def Obligations.RunStepIsTheSmallStepsInOrder : Prop :=
  ∀ s : State, s.pphase = .P_DECODE → s.dphase = .TOP →
    ∃ m, 1 ≤ m ∧ m ≤ 258 ∧ runSteps microStep m s = step s

/-- The step bound the spec derives in 40_decoder_loop.md section 3: every decode stops, after at most
`2·min(N, CAP) + L + 2` of the small steps. -/
def Obligations.EveryDecodeStopsInBoundedSteps : Prop :=
  ∀ s : State, s.pphase = .P_DECODE → s.dphase = .IDLE → s.c = 0 → s.w = 0 → s.i = 0 →
    ∃ m t, m ≤ 2 * min s.N.toNat s.cfg.CAP.toNat + s.cfg.L.toNat + 2 ∧
      runSteps microStep m s = .next t ∧
      t.dphase = .HALT

/-- The equivalence the spec derives in 40_decoder_loop.md section 3, for the core's steps: iterating them
from the start of a decode gives what the big-step function `decode(config, CIN)` gives. The core's step takes
a whole run at the head of the loop, which is the model's choice (log 7); the bound of `N + 2` steps counts
such steps and is not a bound on the steps of R12, whose own is `EveryDecodeStopsInBoundedSteps`. -/
def Obligations.DecodeIsTheBigStepFunction : Prop :=
  ∀ s : State, s.pphase = .P_DECODE → s.dphase = .IDLE → s.cause = .NONE →
    s.c = 0 → s.w = 0 → s.i = 0 → s.out = [] →
    ∃ m t, m ≤ s.N.toNat + 2 ∧ runSteps step m s = .next t ∧ t.dphase = .HALT ∧
      t.c = (bigDecode s.cfg s.N.toNat s.cin.read).c ∧
      t.w = (bigDecode s.cfg s.N.toNat s.cin.read).written.length ∧
      t.i = (bigDecode s.cfg s.N.toNat s.cin.read).i ∧
      t.cause = (bigDecode s.cfg s.N.toNat s.cin.read).cause ∧
      ∀ a, t.out.read a = bigOut (bigDecode s.cfg s.N.toNat s.cin.read) a

/-- The relation of the two cap readings that the spec derives in 40_decoder_loop.md section 3: a
decode that does not stop with `CAP` under `CURSOR` is the same under `ITER`. -/
def Obligations.CapReadingsAgreeBelowTheCap : Prop :=
  ∀ (cfg : Config) (N : Nat) (cin : Nat → Byte),
    (bigDecode { cfg with CAP_KIND := .CURSOR } N cin).cause ≠ .CAP →
    bigDecode { cfg with CAP_KIND := .ITER } N cin
      = bigDecode { cfg with CAP_KIND := .CURSOR } N cin

/-- The determinism the spec derives in 40_decoder_loop.md section 4: bytes of `CIN` at or beyond the
cursor a step leaves do not influence it. -/
def Obligations.UnreadStreamBytesDoNotMatter : Prop :=
  ∀ (s t : State) (other : Memory), s.pphase = .P_DECODE → step s = .next t →
    (∀ a, a < t.c → other.read a = s.cin.read a) →
    step { s with cin := other } = .next { t with cin := other }

/-! ### The CRC engine -/

/-- R141, R142, R144, R145: the start, the load of a data byte, and the end of a checksum. -/
def Obligations.EngineStartsLoadsAndFinishes : Prop :=
  ∀ s : State, s.pphase = .P_CHECK →
    (s.cphase = .C_IDLE →
      step s = .next { s with acc := s.cfg.CRC_INIT, p := 0, cphase := .C_LOAD }) ∧
    (s.cphase = .C_LOAD → s.p < s.cfg.L.toNat →
      step s = .next { s with rem := s.out.read s.p, j := 0, cphase := .C_BIT }) ∧
    (s.cphase = .C_LOAD → s.p = s.cfg.L.toNat →
      step s = .next { s with crc := s.acc ^^^ 0xFFFFFFFF#32, cphase := .C_DONE })

/-- R143, with R144 in the eighth step: the bit is taken before either register is shifted and `POLY`
goes into the already shifted accumulator. -/
def Obligations.EngineTakesOneBit : Prop :=
  ∀ (s : State) (acc' : Word), s.pphase = .P_CHECK → s.cphase = .C_BIT →
    (((s.acc ^^^ s.rem.zeroExtend 32) &&& 1#32 = 1#32 →
        acc' = (s.acc >>> 1) ^^^ s.cfg.POLY) ∧
      ((s.acc ^^^ s.rem.zeroExtend 32) &&& 1#32 = 0#32 → acc' = s.acc >>> 1)) →
    (s.j < 7 → step s = .next { s with acc := acc', rem := s.rem >>> 1, j := s.j + 1 }) ∧
    (s.j = 7 →
      step s = .next
        { s with acc := acc', rem := s.rem >>> 1, j := 8, p := s.p + 1, cphase := .C_LOAD })

/-- Started on the Output Buffer the engine leaves the checksum of all `L` bytes in `crc`, after
`9·L + 2` steps, and changes nothing but its own registers (43_crc32.md sections 1 and 3; the step
count is the spec's own inference). -/
def Obligations.EngineComputesTheChecksum : Prop :=
  ∀ s : State, s.pphase = .P_CHECK → s.cphase = .C_IDLE →
    ∃ t, runSteps step (9 * s.cfg.L.toNat + 2) s = .next t ∧
      t = { s with
            acc := t.acc, rem := t.rem, j := t.j, p := s.cfg.L.toNat, cphase := .C_DONE
            crc := checksum s.cfg (image s) }

/-- The equivalence the spec derives in 43_crc32.md section 3: the byte-at-a-time form of the CRC. -/
def Obligations.ByteAtATimeFormIsEquivalent : Prop :=
  ∀ (poly acc : Word) (data : List Byte),
    data.foldl (crcByteAtOnce poly) acc = crcBytes poly acc data

/-! ### The pipeline and the host -/

/-- Step 1 of the pipeline and the reset of the decoder and `OUT` that begins step 2: what each
answer of the host does. That the reset is applied in the same step, and that the answer is a field
the step clears, is the model's choice (logs 8 and 10), and so is the fault for a file that `N`, a 32-bit
register, cannot count (log 21). The registers R47 leaves unspecified are not spoken of. -/
def Obligations.LoadTakesTheFileFromItsOffset : Prop :=
  ∀ s : State, s.pphase = .P_LOAD →
    (s.hostFile = .unreadable →
      step s = .next
        { s with hostFile := .pending, result := .READ_FAIL, pphase := .P_FAILED }) ∧
    (∀ file, s.hostFile = .contents file → 2 ^ 32 ≤ file.length - s.cfg.SRC_OFFSET →
      step s = .fault .bufferTooLong) ∧
    (∀ file, s.hostFile = .contents file → file.length - s.cfg.SRC_OFFSET < 2 ^ 32 →
      ∃ t, step s = .next t ∧
        t = { s with
              cin := t.cin, N := t.N, hostFile := .pending
              out := [], c := 0, w := 0, i := 0, v := t.v, n := t.n, len := t.len, k := t.k
              dphase := .IDLE, cause := .NONE, pphase := .P_DECODE } ∧
        t.N.toNat = file.length - s.cfg.SRC_OFFSET ∧
        t.cin.wf = true ∧ t.cin.below t.N.toNat = true ∧
        ∀ a, a < t.N.toNat → t.cin.read a = file.getD (s.cfg.SRC_OFFSET + a) 0)

/-- R173 and the other ends of step 2, by the cause of the decoder's stop. -/
def Obligations.DecodeEndsByItsCause : Prop :=
  ∀ s : State, s.pphase = .P_DECODE → s.dphase = .HALT →
    (s.cause = .FULL ∨ s.cause = .CAP ∨ s.cause = .UNDERFLOW →
      step s = .next { s with pphase := .P_CHECK }) ∧
    (s.cause = .OVERRUN →
      ∃ t, step s = .next t ∧ t = { s with pphase := .P_FAILED, result := .MALFORMED_INPUT } ∧
        handOver t = none)

/-- R164 and the comparison before it: on a mismatch the run fails, `OUT` stays as it is and is not
handed over; else the run goes on to step 4. -/
def Obligations.ChecksumDecidesTheRun : Prop :=
  ∀ s : State, s.pphase = .P_CHECK → s.cphase = .C_DONE →
    (s.crc = s.cfg.CRC_EXPECTED →
      step s = .next { s with crcOk := true, pphase := .P_PATCH }) ∧
    (s.crc ≠ s.cfg.CRC_EXPECTED →
      ∃ t, step s = .next t ∧
        t = { s with crcOk := false, pphase := .P_FAILED, result := .CHECKSUM_MISMATCH } ∧
        handOver t = none)

/-- The patch decision, step 4. That the sixteen writes are one step, and that the answer is a field
the step clears, is the model's choice (logs 8 and 15). -/
def Obligations.PatchOverwritesTheHeaderOnYes : Prop :=
  ∀ s : State, s.pphase = .P_PATCH → s.out.wf = true →
    (s.hostPatch = some false →
      step s = .next
        { s with patchReq := false, hostPatch := none, pphase := .P_WRITE }) ∧
    (s.hostPatch = some true → s.cfg.L.toNat < 16 →
      step s = .next
        { s with
          patchReq := true, hostPatch := none, pphase := .P_FAILED, result := .PATCH_REFUSED }) ∧
    (s.hostPatch = some true → 16 ≤ s.cfg.L.toNat →
      ∃ m : Memory,
        step s = .next
          { s with out := m, patchReq := true, hostPatch := none, pphase := .P_WRITE } ∧
        (∀ t : Fin 16, m.read t = s.cfg.FIXED_HEADER[t]) ∧
        (∀ a, 16 ≤ a → m.read a = s.out.read a))

/-- R68: the patch writes the sixteen header bytes to `OUT[0 .. 15]` and nothing else. -/
def Obligations.PatchWritesTheHeaderAlone : Prop :=
  ∀ s : State, s.out.wf = true →
    patchHeader s = { s with out := (patchHeader s).out } ∧
    (∀ t : Fin 16, (patchHeader s).out.read t = s.cfg.FIXED_HEADER[t]) ∧
    ∀ a, 16 ≤ a → (patchHeader s).out.read a = s.out.read a

/-- R171: the header patch is idempotent. -/
def Obligations.PatchIsIdempotent : Prop :=
  ∀ s : State, s.out.wf = true → patchHeader (patchHeader s) = patchHeader s

/-- Step 5: the image of exactly `L` bytes stands to be written, and the run ends as the host
reports. That the report is a field the step clears is the model's choice (log 8). -/
def Obligations.WriteEndsTheRun : Prop :=
  ∀ s : State, s.pphase = .P_WRITE →
    handOver s = some (image s) ∧ (image s).length = s.cfg.L.toNat ∧
    (s.hostWrite = some true →
      step s = .next { s with hostWrite := none, pphase := .P_DONE, result := .OK }) ∧
    (s.hostWrite = some false →
      step s = .next { s with hostWrite := none, pphase := .P_FAILED, result := .WRITE_FAIL })

/-- R169: the exit codes of an ended run. -/
def Obligations.ExitCodeTellsOnlySuccess : Prop :=
  ∀ s : State, s.pphase = .P_DONE ∨ s.pphase = .P_FAILED →
    (s.result = .OK → exitCode s = some 0) ∧
    (s.result ≠ .OK → exitCode s = some s.cfg.EXIT_FAIL) ∧
    (s.cfg.Legal → (exitCode s = some 0 ↔ s.result = .OK))

/-- Where the core waits for the host its step changes nothing, and so once a run has ended: this is
the model's choice (logs 8 and 12). -/
def Obligations.WaitsChangeNothing : Prop :=
  ∀ s : State,
    (s.pphase = .P_LOAD → s.hostFile = .pending → step s = .next s) ∧
    (s.pphase = .P_PATCH → s.hostPatch = none → step s = .next s) ∧
    (s.pphase = .P_WRITE → s.hostWrite = none → step s = .next s) ∧
    (s.pphase = .P_DONE ∨ s.pphase = .P_FAILED → step s = .next s)

/-- The pipeline's steps follow each other in their order, and one is left only when its agent has
ended. (That `P_IDLE` is left without a sign from the host is the model's choice, log 14.) -/
def Obligations.PipelineStepsKeepTheirOrder : Prop :=
  ∀ s t : State, step s = .next t →
    t.pphase = s.pphase ∨
    (s.pphase = .P_IDLE ∧ t.pphase = .P_LOAD) ∨
    (s.pphase = .P_LOAD ∧ (t.pphase = .P_DECODE ∨ t.pphase = .P_FAILED) ∧
      s.hostFile ≠ .pending) ∨
    (s.pphase = .P_DECODE ∧ (t.pphase = .P_CHECK ∨ t.pphase = .P_FAILED) ∧
      s.dphase = .HALT) ∨
    (s.pphase = .P_CHECK ∧ (t.pphase = .P_PATCH ∨ t.pphase = .P_FAILED) ∧
      s.cphase = .C_DONE) ∨
    (s.pphase = .P_PATCH ∧ (t.pphase = .P_WRITE ∨ t.pphase = .P_FAILED) ∧
      s.hostPatch ≠ none) ∨
    (s.pphase = .P_WRITE ∧ (t.pphase = .P_DONE ∨ t.pphase = .P_FAILED) ∧
      s.hostWrite ≠ none)

/-- In each phase a step changes only what the active agent owns; the configuration never
changes and `CIN` only in step 1. (That the step of `P_LOAD` also applies the reset values of step 2 is
log 10, that a step takes the host's answers log 8, and that one after the end of a run changes nothing
log 12.) -/
def Obligations.EachPhaseWritesOnlyWhatItOwns : Prop :=
  ∀ s t : State, s.out.wf = true → step s = .next t →
    t.cfg = s.cfg ∧
    (s.pphase = .P_IDLE → t = { s with pphase := t.pphase }) ∧
    (s.pphase = .P_LOAD →
      t = { s with
            cin := t.cin, N := t.N, hostFile := t.hostFile, out := t.out, c := t.c, w := t.w
            i := t.i, v := t.v, n := t.n, len := t.len, k := t.k, dphase := t.dphase
            cause := t.cause, pphase := t.pphase, result := t.result }) ∧
    (s.pphase = .P_DECODE →
      t = { s with
            out := t.out, c := t.c, w := t.w, i := t.i, v := t.v, n := t.n, len := t.len
            k := t.k, dphase := t.dphase, cause := t.cause, pphase := t.pphase
            result := t.result } ∧
      ∀ a, a < s.w ∨ t.w ≤ a → t.out.read a = s.out.read a) ∧
    (s.pphase = .P_CHECK →
      t = { s with
            acc := t.acc, rem := t.rem, j := t.j, p := t.p, cphase := t.cphase, crc := t.crc
            crcOk := t.crcOk, pphase := t.pphase, result := t.result }) ∧
    (s.pphase = .P_PATCH →
      t = { s with
            out := t.out, patchReq := t.patchReq, hostPatch := t.hostPatch
            pphase := t.pphase, result := t.result } ∧
      ∀ a, 16 ≤ a → t.out.read a = s.out.read a) ∧
    (s.pphase = .P_WRITE →
      t = { s with pphase := t.pphase, result := t.result, hostWrite := t.hostWrite }) ∧
    (s.pphase = .P_DONE ∨ s.pphase = .P_FAILED → t = s)

/-- While the core is active the host has no move but reset; where it has another, it
changes its own inputs, and the configuration only before a run. Which phases leave which move to the
host is the model's reading of the ownership table (log 18). -/
def Obligations.HostDoesNotTouchAnActiveRun : Prop :=
  ∀ (move : HostMove) (s t : State), hostMove move s = some t →
    move = .reset ∨
    (s.pphase ≠ .P_DECODE ∧ s.pphase ≠ .P_CHECK ∧
      (s.pphase ≠ .P_IDLE → t.cfg = s.cfg) ∧
      t = { s with
            cfg := t.cfg, hostFile := t.hostFile, hostPatch := t.hostPatch
            hostWrite := t.hostWrite })

/-- Every move of the host that the model permits is answered and sets exactly its field, and none is
answered otherwise: the configuration (a legal one, R7) in `P_IDLE`, the file in `P_IDLE` and `P_LOAD`, the
yes or no of step 4, the report of step 5, and reset always. Which phases leave which move to the host is
the model's reading of the ownership table (log 18); that a file too long for `N` is no move is log 21. -/
def Obligations.PermittedHostMovesAreAnswered : Prop :=
  ∀ s t : State,
    (∀ cfg, hostMove (.configure cfg) s = some t ↔
      s.pphase = .P_IDLE ∧ cfg.Legal ∧
      (∀ file, s.hostFile = .contents file → file.length - cfg.SRC_OFFSET < 2 ^ 32) ∧
      t = { s with cfg := cfg }) ∧
    (∀ answer, hostMove (.supplyFile answer) s = some t ↔
      (s.pphase = .P_IDLE ∨ s.pphase = .P_LOAD) ∧
      (∀ file, answer = .contents file → file.length - s.cfg.SRC_OFFSET < 2 ^ 32) ∧
      t = { s with hostFile := answer }) ∧
    (∀ yes, hostMove (.answerPatch yes) s = some t ↔
      s.pphase = .P_PATCH ∧ t = { s with hostPatch := some yes }) ∧
    (∀ ok, hostMove (.reportWrite ok) s = some t ↔
      s.pphase = .P_WRITE ∧ t = { s with hostWrite := some ok }) ∧
    (hostMove .reset s = some t ↔ t = applyReset s)

/-! ### Invariants -/

/-- Reset meets the invariant of the core. That `n`, `k` and `j` are in their ranges and `p` in its width
right after reset rests on the model's choice of their values there (log 1; R47 leaves them unspecified),
and that no file is pending on log 8. -/
def Obligations.ResetMeetsTheInvariant : Prop := Inv State.reset

/-- The invariants of the decoder's registers that the spec derives in 10_state.md section 2 are kept by
every step, of either size. (That `n` and `k` are in their ranges after the reset values of step 2 rests
on the model's choice of them, log 1.) -/
def Obligations.StepsKeepTheDecoderInvariant : Prop :=
  ∀ s t : State, DecoderInv s → step s = .next t ∨ microStep s = .next t → DecoderInv t

/-- The invariant of the whole core is kept by every step, of either size: with it the decode stays on
its way to what `decode(config, CIN)` gives, the accumulator is the CRC of the bits processed so far, and
the image handed over is the decoded one, patched or not. (That `n` and `k` are in their ranges after the
reset values of step 2 rests on log 1.) -/
def Obligations.StepsKeepTheInvariant : Prop :=
  ∀ s t : State, Inv s → step s = .next t ∨ microStep s = .next t → Inv t

/-- The invariant of the whole core is kept by every move of the host. Which moves there are is the
model's reading (log 18; for the length of a file log 21); that reset meets the ranges of `n`, `k` and `j`
and the width of `p` rests on the model's values for them (log 1). -/
def Obligations.HostMovesKeepTheInvariant : Prop :=
  ∀ (s t : State) (move : HostMove), Inv s → hostMove move s = some t → Inv t

/-- Every state a machine can be in, whatever the host supplies, meets the invariant. The host keeps its
duties and has the moves the model gives it (logs 17, 18 and 21); the values of the working registers at
reset are the model's (log 1). -/
def Obligations.ReachableStatesMeetTheInvariant : Prop := ∀ s : State, Reachable s → Inv s

/-- In every state a machine can be in the configuration is in the legal ranges of R7: the default one is
(log 4), no step writes it, and the host can set no other (log 18). -/
def Obligations.ReachableConfigurationsAreLegal : Prop :=
  ∀ s : State, Reachable s → s.cfg.Legal

/-- The situations the spec says cannot arise do not (20_memory.md section 1, 10_state.md section 8):
where the invariant holds, every step answers a next state. That a step answers at all while the core
waits for the host (log 8), and in `P_DONE` and `P_FAILED`, where the spec has no enabled step (log 12), is
the model's choice. -/
def Obligations.NoFaultArises : Prop :=
  ∀ s : State, Inv s → (∃ t, step s = .next t) ∧ (∃ t, microStep s = .next t)

/-- 10_state.md section 2: no register that is held as a natural number overflows the width the spec
decides for it. (`L`, `CAP` and `N` are 32-bit words, so no premise bounds them. Before their first write
in a run `n`, `k`, `j` and `p` hold the values of log 1, or an earlier run's.) -/
def Obligations.RegistersFitTheirWidths : Prop :=
  ∀ s t : State, Inv s → step s = .next t ∨ microStep s = .next t →
    t.c < 2 ^ 32 ∧ t.w < 2 ^ 32 ∧ t.i < 2 ^ 32 ∧ t.p < 2 ^ 32 ∧ t.n < 2 ^ 8 ∧ t.k < 2 ^ 9 ∧
      t.j < 2 ^ 4

/-- The liveness the spec derives in 70_reset_and_hazards.md section 4: every agent, once started, reaches
its end: from every state that meets the invariant the run ends, or comes to one of the three waits for
the host. (That `P_IDLE` is left without a sign from the host is the model's choice, log 14.) -/
def Obligations.EveryRunEndsOrWaitsForTheHost : Prop :=
  ∀ s : State, Inv s →
    ∃ m t, runSteps step m s = .next t ∧ (runEnded t = true ∨ waitsForHost t = true)

/-- What the core owes the host at the end of a successful run: `OK`, and an image of `L` bytes whose
unpatched content, the image that the big-step function `decode(config, CIN)` gives (`decodedImage`), has
the expected checksum; it is handed over as it is, or with the fixed header for its first 16 bytes and
nothing else changed. -/
def Obligations.SuccessfulRunHandsOverACheckedImage : Prop :=
  ∀ s : State, Inv s → s.pphase = .P_DONE →
    s.result = .OK ∧ exitCode s = some 0 ∧ handOver s = some (image s) ∧
    (image s).length = s.cfg.L.toNat ∧
    checksum s.cfg (decodedImage s) = s.cfg.CRC_EXPECTED ∧
    (∀ a, a < s.cfg.L.toNat → ¬ (s.patchReq = true ∧ a < 16) →
      s.out.read a = bigOut (bigDecode s.cfg s.N.toNat s.cin.read) a) ∧
    (s.patchReq = true → 16 ≤ s.cfg.L.toNat ∧ ∀ t : Fin 16, s.out.read t = s.cfg.FIXED_HEADER[t])
end

