-- ==== Sys2Proof/Laws/Memory.lean ====
section
/-! SUPPORT. The laws of the byte memories: what a read sees after a write, and that every memory
operation keeps the canonical form. -/

namespace Sys2Proof.Machine

@[simp] theorem Memory.read_nil (a : Nat) : Memory.read [] a = Memory.unlisted := rfl

@[simp] theorem Memory.wf_nil : Memory.wf [] = true := rfl

@[simp] theorem Memory.below_nil (bound : Nat) : Memory.below [] bound = true := rfl

@[simp] theorem Memory.writeBytes_nil (m : Memory) (a : Nat) : m.writeBytes a [] = m := rfl

@[simp] theorem Memory.writeBytes_cons (m : Memory) (a : Nat) (b : Byte) (bs : List Byte) :
    m.writeBytes a (b :: bs) = (m.write a b).writeBytes (a + 1) bs := rfl

theorem Memory.below_cons (x : Nat) (y : Byte) (rest : Memory) (bound : Nat) :
    Memory.below ((x, y) :: rest) bound = true ↔ x < bound ∧ Memory.below rest bound = true := by
  simp [Memory.below]

theorem Memory.below_mono {m : Memory} {bound bound' : Nat} (h : m.below bound = true)
    (le : bound ≤ bound') : m.below bound' = true := by
  simp only [Memory.below, List.all_eq_true, decide_eq_true_eq] at *
  exact fun cell hc => Nat.lt_of_lt_of_le (h cell hc) le

theorem Memory.below_zero {m : Memory} (h : m.below 0 = true) : m = [] := by
  cases m with
  | nil => rfl
  | cons cell rest => simp [Memory.below] at h

/-- Nothing is listed at or beyond the bound of a memory, so reads there give the unlisted value. -/
theorem Memory.read_of_below {m : Memory} {bound : Nat} (h : m.below bound = true) {a : Nat}
    (ha : bound ≤ a) : m.read a = Memory.unlisted := by
  induction m with
  | nil => rfl
  | cons cell rest ih =>
    obtain ⟨x, y⟩ := cell
    rw [Memory.below_cons] at h
    rw [Memory.read, if_neg (by omega)]
    exact ih h.2

/-- The canonical form of a memory with one more cell in front. -/
theorem Memory.wf_cons (x : Nat) (y : Byte) (rest : Memory) :
    Memory.wf ((x, y) :: rest) = true ↔
      y ≠ Memory.unlisted ∧ (∀ cell ∈ rest, x < cell.1) ∧ rest.wf = true := by
  simp [Memory.wf, and_assoc]

/-- In a memory all of whose cells lie above an address, that address is not listed. -/
theorem Memory.read_of_above {m : Memory} {a : Nat} (h : ∀ cell ∈ m, a < cell.1) :
    m.read a = Memory.unlisted := by
  induction m with
  | nil => rfl
  | cons cell rest ih =>
    obtain ⟨x, y⟩ := cell
    have hx : a < x := h (x, y) (by simp)
    rw [Memory.read, if_neg (by omega)]
    exact ih fun d hd => h d (by simp [hd])

/-- A write lists no address but its own beside those listed before. -/
theorem Memory.mem_write {m : Memory} {a : Nat} {b : Byte} {cell : Host.Cell}
    (h : cell ∈ m.write a b) : cell.1 = a ∨ cell ∈ m := by
  induction m with
  | nil =>
    rw [Memory.write] at h
    split at h
    · cases h
    · simp at h; simp [h]
  | cons d rest ih =>
    obtain ⟨x, y⟩ := d
    rw [Memory.write] at h
    split at h
    · split at h
      · exact .inr h
      · rcases List.mem_cons.1 h with rfl | h
        · exact .inl rfl
        · exact .inr h
    · split at h
      · split at h
        · exact .inr (List.mem_cons_of_mem _ h)
        · rcases List.mem_cons.1 h with rfl | h
          · exact .inl rfl
          · exact .inr (List.mem_cons_of_mem _ h)
      · rcases List.mem_cons.1 h with rfl | h
        · exact .inr (by simp)
        · exact (ih h).imp_right (List.mem_cons_of_mem _)

/-- A write keeps the canonical form. -/
theorem Memory.wf_write {m : Memory} (h : m.wf = true) (a : Nat) (b : Byte) :
    (m.write a b).wf = true := by
  induction m with
  | nil =>
    rw [Memory.write]
    split
    · rfl
    · rename_i hb; simp [Memory.wf, hb]
  | cons cell rest ih =>
    obtain ⟨x, y⟩ := cell
    have hc := (Memory.wf_cons x y rest).1 h
    rw [Memory.write]
    split
    · rename_i hax
      split
      · exact h
      · rename_i hb
        refine (Memory.wf_cons ..).2 ⟨hb, ?_, h⟩
        intro d hd
        rcases List.mem_cons.1 hd with rfl | hd
        · exact hax
        · exact lt_trans hax (hc.2.1 d hd)
    · split
      · rename_i hax
        subst hax
        split
        · exact hc.2.2
        · rename_i hb; exact (Memory.wf_cons ..).2 ⟨hb, hc.2.1, hc.2.2⟩
      · refine (Memory.wf_cons ..).2 ⟨hc.1, ?_, ih hc.2.2⟩
        intro d hd
        rcases Memory.mem_write hd with rfl | hd
        · omega
        · exact hc.2.1 d hd

/-- A write below the bound keeps all cells below it. -/
theorem Memory.below_write {m : Memory} {bound : Nat} (h : m.below bound = true) {a : Nat}
    (ha : a < bound) (b : Byte) : (m.write a b).below bound = true := by
  simp only [Memory.below, List.all_eq_true, decide_eq_true_eq] at *
  intro cell hc
  rcases Memory.mem_write hc with rfl | hc
  · exact ha
  · exact h cell hc

/-- What a read sees after a write to a memory in canonical form: the byte written at its address, and
the old bytes elsewhere. -/
theorem Memory.read_write {m : Memory} (h : m.wf = true) (a : Nat) (b : Byte) (x : Nat) :
    (m.write a b).read x = if x = a then b else m.read x := by
  induction m with
  | nil =>
    rw [Memory.write]
    split
    · rename_i hb; simp [hb]
    · simp [Memory.read]
  | cons cell rest ih =>
    obtain ⟨u, y⟩ := cell
    have hc := (Memory.wf_cons u y rest).1 h
    rw [Memory.write]
    split
    · rename_i hau
      split
      · rename_i hb
        by_cases hx : x = a
        · subst hx
          rw [if_pos rfl, hb]
          refine Memory.read_of_above ?_
          intro d hd
          rcases List.mem_cons.1 hd with rfl | hd
          · exact hau
          · exact lt_trans hau (hc.2.1 d hd)
        · rw [if_neg hx]
      · rw [Memory.read]
    · split
      · rename_i hau
        subst hau
        split
        · rename_i hb
          by_cases hx : x = a
          · subst hx
            rw [if_pos rfl, hb]
            exact Memory.read_of_above hc.2.1
          · rw [if_neg hx, Memory.read, if_neg hx]
        · by_cases hx : x = a
          · simp [Memory.read, hx]
          · simp [Memory.read, hx]
      · rename_i hlt hne
        rw [Memory.read, Memory.read, ih hc.2.2]
        by_cases hx : x = u
        · rw [if_pos hx, if_pos hx, if_neg (by omega)]
        · rw [if_neg hx, if_neg hx]

/-- Two memories in canonical form with equal bytes are equal data. -/
theorem Memory.ext_read {m m' : Memory} (h : m.wf = true) (h' : m'.wf = true)
    (eq : ∀ a, m.read a = m'.read a) : m = m' := by
  induction m generalizing m' with
  | nil =>
    cases m' with
    | nil => rfl
    | cons cell rest =>
      obtain ⟨x, y⟩ := cell
      have := eq x
      simp [Memory.read] at this
      exact absurd this.symm ((Memory.wf_cons ..).1 h').1
  | cons cell rest ih =>
    obtain ⟨x, y⟩ := cell
    have hc := (Memory.wf_cons x y rest).1 h
    cases m' with
    | nil =>
      have := eq x
      simp [Memory.read] at this
      exact absurd this hc.1
    | cons cell' rest' =>
      obtain ⟨x', y'⟩ := cell'
      have hc' := (Memory.wf_cons x' y' rest').1 h'
      have hx : x = x' := by
        rcases Nat.lt_trichotomy x x' with hlt | heq | hgt
        · have := eq x
          rw [Memory.read, if_pos rfl, Memory.read, if_neg (by omega),
            Memory.read_of_above (fun d hd => lt_trans hlt (hc'.2.1 d hd))] at this
          exact absurd this hc.1
        · exact heq
        · have := eq x'
          rw [Memory.read, if_neg (by omega),
            Memory.read_of_above (fun d hd => lt_trans hgt (hc.2.1 d hd)), Memory.read,
            if_pos rfl] at this
          exact absurd this.symm hc'.1
      subst hx
      have hy : y = y' := by simpa [Memory.read] using eq x
      subst hy
      have hr : rest = rest' := by
        refine ih hc.2.2 hc'.2.2 fun a => ?_
        by_cases ha : a = x
        · subst ha
          rw [Memory.read_of_above hc.2.1, Memory.read_of_above hc'.2.1]
        · simpa [Memory.read, ha] using eq a
      rw [hr]

/-- Writing a list of bytes keeps the canonical form. -/
theorem Memory.wf_writeBytes {m : Memory} (h : m.wf = true) (a : Nat) (bs : List Byte) :
    (m.writeBytes a bs).wf = true := by
  induction bs generalizing m a with
  | nil => exact h
  | cons b bs ih => exact ih (Memory.wf_write h a b) (a + 1)

/-- Writing a list of bytes below the bound keeps all cells below it. -/
theorem Memory.below_writeBytes {m : Memory} {bound : Nat} (h : m.below bound = true) {a : Nat}
    {bs : List Byte} (fits : a + bs.length ≤ bound) : (m.writeBytes a bs).below bound = true := by
  induction bs generalizing m a with
  | nil => exact h
  | cons b bs ih =>
    simp only [List.length_cons] at fits
    exact ih (Memory.below_write h (by omega) b) (by omega)

/-- What a read sees after a list of bytes has been written. -/
theorem Memory.read_writeBytes {m : Memory} (h : m.wf = true) (a : Nat) (bs : List Byte) (x : Nat) :
    (m.writeBytes a bs).read x
      = if a ≤ x ∧ x < a + bs.length then bs.getD (x - a) 0 else m.read x := by
  induction bs generalizing m a with
  | nil => rw [if_neg (by simp)]; rfl
  | cons b bs ih =>
    rw [Memory.writeBytes_cons, ih (Memory.wf_write h a b), Memory.read_write h]
    by_cases hx : x = a
    · subst hx
      rw [if_neg (by omega), if_pos rfl, if_pos (by simp)]
      simp
    · by_cases hin : a + 1 ≤ x ∧ x < a + 1 + bs.length
      · rw [if_pos hin, if_pos (by simp; omega)]
        obtain ⟨d, hd⟩ : ∃ d, x - a = d + 1 := ⟨x - a - 1, by omega⟩
        rw [hd, List.getD_cons_succ, show x - (a + 1) = d by omega]
      · rw [if_neg hin, if_neg hx, if_neg (by simp; omega)]

/-- The cells of a memory made from bytes lie from its first address on. -/
theorem Memory.mem_ofBytes {a : Nat} {bs : List Byte} {cell : Host.Cell}
    (h : cell ∈ Memory.ofBytes a bs) : a ≤ cell.1 ∧ cell.1 < a + bs.length := by
  induction bs generalizing a with
  | nil => cases h
  | cons b bs ih =>
    rw [Memory.ofBytes] at h
    split at h
    · have := ih h
      simp only [List.length_cons]
      omega
    · rcases List.mem_cons.1 h with rfl | h
      · simp
      · have := ih h
        simp only [List.length_cons]
        omega

/-- A memory made from bytes is in canonical form. -/
theorem Memory.wf_ofBytes (a : Nat) (bs : List Byte) : (Memory.ofBytes a bs).wf = true := by
  induction bs generalizing a with
  | nil => rfl
  | cons b bs ih =>
    rw [Memory.ofBytes]
    split
    · exact ih (a + 1)
    · rename_i hb
      refine (Memory.wf_cons ..).2 ⟨hb, fun d hd => ?_, ih (a + 1)⟩
      have := Memory.mem_ofBytes hd
      omega

/-- A memory made from bytes has no cell beyond them. -/
theorem Memory.below_ofBytes {a : Nat} {bs : List Byte} {bound : Nat}
    (fits : a + bs.length ≤ bound) : (Memory.ofBytes a bs).below bound = true := by
  simp only [Memory.below, List.all_eq_true, decide_eq_true_eq]
  intro cell hc
  have := Memory.mem_ofBytes hc
  omega

/-- A memory made from bytes reads as those bytes. -/
theorem Memory.read_ofBytes (a : Nat) (bs : List Byte) (x : Nat) :
    (Memory.ofBytes a bs).read x = if a ≤ x then bs.getD (x - a) 0 else Memory.unlisted := by
  induction bs generalizing a x with
  | nil => simp [Memory.ofBytes, Memory.unlisted]
  | cons b bs ih =>
    by_cases hx : a + 1 ≤ x
    · have rest : (Memory.ofBytes (a + 1) bs).read x = (b :: bs).getD (x - a) 0 := by
        rw [ih, if_pos hx]
        obtain ⟨d, rfl⟩ : ∃ d, x = a + 1 + d := ⟨x - (a + 1), by omega⟩
        rw [show a + 1 + d - a = d + 1 by omega, show a + 1 + d - (a + 1) = d by omega,
          List.getD_cons_succ]
      rw [if_pos (show a ≤ x by omega), Memory.ofBytes]
      split
      · exact rest
      · rw [Memory.read, if_neg (show ¬ x = a by omega)]
        exact rest
    · have above : (Memory.ofBytes (a + 1) bs).read x = Memory.unlisted :=
        Memory.read_of_above fun d hd => by have := Memory.mem_ofBytes hd; omega
      by_cases ha : a = x
      · subst ha
        rw [if_pos (le_refl a), Nat.sub_self, List.getD_cons_zero, Memory.ofBytes]
        split
        · rename_i hb; rw [above, hb]
        · rw [Memory.read, if_pos rfl]
      · rw [if_neg (show ¬ a ≤ x by omega), Memory.ofBytes]
        split
        · exact above
        · rw [Memory.read, if_neg (show ¬ x = a by omega)]
          exact above

end Sys2Proof.Machine
end

