-- ==== Sys2Proof/Laws/Operands.lean ====
section
/-! SUPPORT. Arithmetic of the control byte: the opcode bit, the sign and the distance say the same
(30_encoding.md R81, R84). -/

namespace Sys2Proof

/-- Bit 7 of a byte is set exactly when the byte is 128 or more. -/
theorem isRef_iff (b : Byte) : isRef b = true ↔ 128 ≤ b.toNat := by
  have : isRef b = b.msb := by simp [isRef, BitVec.msb, BitVec.getMsbD]
  rw [this, BitVec.msb_eq_decide, decide_eq_true_eq]

theorem isRef_false (b : Byte) : isRef b = false ↔ b.toNat < 128 := by
  rw [← Bool.not_eq_true, isRef_iff, Nat.not_le]

/-- The dispatch on the sign of `v` (R103) is the dispatch on the opcode bit (R85). -/
theorem sext8_neg (b : Byte) : sext8 b < 0 ↔ 128 ≤ b.toNat := by
  have := b.isLt
  unfold sext8; split <;> omega

theorem sext8_of_lt {b : Byte} (h : b.toNat < 128) : sext8 b = b.toNat := by
  rw [sext8, if_pos (by omega)]

theorem sext8_of_ge {b : Byte} (h : 128 ≤ b.toNat) : sext8 b = (b.toNat : Int) - 256 := by
  rw [sext8, if_neg (by omega)]

theorem litControl_toNat {count : Nat} (h : count ≤ 256) :
    (litControl count).toNat = count - 1 := by
  simp [litControl]; omega

theorem refControl_toNat {n : Nat} (h : 1 ≤ n) : (refControl n).toNat = 256 - n := by
  simp [refControl]; omega

theorem refLengthByte_toNat {count : Nat} (h : count ≤ 256) :
    (refLengthByte count).toNat = count - 1 := by
  simp [refLengthByte]; omega

/-- A byte that begins with the opcode bit set begins a `REF`. -/
theorem decode_ref {b : Byte} (h : 128 ≤ b.toNat) (l : Byte) (rest : List Byte) :
    decode (b :: l :: rest) = .ok (.ref (refDistance b) (refCount l), rest) := by
  simp [decode, (isRef_iff b).2 h]

/-- A byte that begins with the opcode bit clear begins a `LIT`. -/
theorem decode_lit {b : Byte} (h : b.toNat < 128) {tail : List Byte}
    (enough : litCount b ≤ tail.length) :
    decode (b :: tail) = .ok (.lit (tail.take (litCount b)), tail.drop (litCount b)) := by
  have := (isRef_false b).2 h
  unfold decode
  simp [this, Nat.not_lt.2 enough]

namespace Machine

/-- The distance is at most 128 whatever stands in `v` (R25, R84 (b)). -/
theorem distance_le (s : State) : distance s ≤ 128 := by
  have := s.v.isLt
  unfold distance sext8; split <;> omega

theorem distance_of_ge {s : State} (h : 128 ≤ s.v.toNat) : distance s = 256 - s.v.toNat := by
  have := s.v.isLt
  unfold distance sext8; split <;> omega

end Machine

end Sys2Proof
end

