-- ==== Sys2Proof/Laws/State.lean ====
section
/-! SUPPORT. What each named update of the state does to each field: one lemma per field per update, so
that no proof unfolds a record update. -/

namespace Sys2Proof.Machine

/-! ### raiseStop -/

@[simp] theorem raiseStop_cfg (why : Cause) (s : State) : (raiseStop why s).cfg = s.cfg := rfl
@[simp] theorem raiseStop_cin (why : Cause) (s : State) : (raiseStop why s).cin = s.cin := rfl
@[simp] theorem raiseStop_N (why : Cause) (s : State) : (raiseStop why s).N = s.N := rfl
@[simp] theorem raiseStop_out (why : Cause) (s : State) : (raiseStop why s).out = s.out := rfl
@[simp] theorem raiseStop_c (why : Cause) (s : State) : (raiseStop why s).c = s.c := rfl
@[simp] theorem raiseStop_w (why : Cause) (s : State) : (raiseStop why s).w = s.w := rfl
@[simp] theorem raiseStop_i (why : Cause) (s : State) : (raiseStop why s).i = s.i := rfl
@[simp] theorem raiseStop_v (why : Cause) (s : State) : (raiseStop why s).v = s.v := rfl
@[simp] theorem raiseStop_n (why : Cause) (s : State) : (raiseStop why s).n = s.n := rfl
@[simp] theorem raiseStop_len (why : Cause) (s : State) : (raiseStop why s).len = s.len := rfl
@[simp] theorem raiseStop_k (why : Cause) (s : State) : (raiseStop why s).k = s.k := rfl
@[simp] theorem raiseStop_dphase (why : Cause) (s : State) : (raiseStop why s).dphase = .HALT := rfl
@[simp] theorem raiseStop_cause (why : Cause) (s : State) : (raiseStop why s).cause = why := rfl
@[simp] theorem raiseStop_acc (why : Cause) (s : State) : (raiseStop why s).acc = s.acc := rfl
@[simp] theorem raiseStop_rem (why : Cause) (s : State) : (raiseStop why s).rem = s.rem := rfl
@[simp] theorem raiseStop_j (why : Cause) (s : State) : (raiseStop why s).j = s.j := rfl
@[simp] theorem raiseStop_p (why : Cause) (s : State) : (raiseStop why s).p = s.p := rfl
@[simp] theorem raiseStop_cphase (why : Cause) (s : State) : (raiseStop why s).cphase = s.cphase := rfl
@[simp] theorem raiseStop_crc (why : Cause) (s : State) : (raiseStop why s).crc = s.crc := rfl
@[simp] theorem raiseStop_crcOk (why : Cause) (s : State) : (raiseStop why s).crcOk = s.crcOk := rfl
@[simp] theorem raiseStop_pphase (why : Cause) (s : State) : (raiseStop why s).pphase = s.pphase := rfl
@[simp] theorem raiseStop_result (why : Cause) (s : State) : (raiseStop why s).result = s.result := rfl
@[simp] theorem raiseStop_patchReq (why : Cause) (s : State) : (raiseStop why s).patchReq = s.patchReq := rfl
@[simp] theorem raiseStop_hostFile (why : Cause) (s : State) : (raiseStop why s).hostFile = s.hostFile := rfl
@[simp] theorem raiseStop_hostPatch (why : Cause) (s : State) : (raiseStop why s).hostPatch = s.hostPatch := rfl
@[simp] theorem raiseStop_hostWrite (why : Cause) (s : State) : (raiseStop why s).hostWrite = s.hostWrite := rfl

/-! ### failRun -/

@[simp] theorem failRun_cfg (why : RunResult) (s : State) : (failRun why s).cfg = s.cfg := rfl
@[simp] theorem failRun_cin (why : RunResult) (s : State) : (failRun why s).cin = s.cin := rfl
@[simp] theorem failRun_N (why : RunResult) (s : State) : (failRun why s).N = s.N := rfl
@[simp] theorem failRun_out (why : RunResult) (s : State) : (failRun why s).out = s.out := rfl
@[simp] theorem failRun_c (why : RunResult) (s : State) : (failRun why s).c = s.c := rfl
@[simp] theorem failRun_w (why : RunResult) (s : State) : (failRun why s).w = s.w := rfl
@[simp] theorem failRun_i (why : RunResult) (s : State) : (failRun why s).i = s.i := rfl
@[simp] theorem failRun_v (why : RunResult) (s : State) : (failRun why s).v = s.v := rfl
@[simp] theorem failRun_n (why : RunResult) (s : State) : (failRun why s).n = s.n := rfl
@[simp] theorem failRun_len (why : RunResult) (s : State) : (failRun why s).len = s.len := rfl
@[simp] theorem failRun_k (why : RunResult) (s : State) : (failRun why s).k = s.k := rfl
@[simp] theorem failRun_dphase (why : RunResult) (s : State) : (failRun why s).dphase = s.dphase := rfl
@[simp] theorem failRun_cause (why : RunResult) (s : State) : (failRun why s).cause = s.cause := rfl
@[simp] theorem failRun_acc (why : RunResult) (s : State) : (failRun why s).acc = s.acc := rfl
@[simp] theorem failRun_rem (why : RunResult) (s : State) : (failRun why s).rem = s.rem := rfl
@[simp] theorem failRun_j (why : RunResult) (s : State) : (failRun why s).j = s.j := rfl
@[simp] theorem failRun_p (why : RunResult) (s : State) : (failRun why s).p = s.p := rfl
@[simp] theorem failRun_cphase (why : RunResult) (s : State) : (failRun why s).cphase = s.cphase := rfl
@[simp] theorem failRun_crc (why : RunResult) (s : State) : (failRun why s).crc = s.crc := rfl
@[simp] theorem failRun_crcOk (why : RunResult) (s : State) : (failRun why s).crcOk = s.crcOk := rfl
@[simp] theorem failRun_pphase (why : RunResult) (s : State) : (failRun why s).pphase = .P_FAILED := rfl
@[simp] theorem failRun_result (why : RunResult) (s : State) : (failRun why s).result = why := rfl
@[simp] theorem failRun_patchReq (why : RunResult) (s : State) : (failRun why s).patchReq = s.patchReq := rfl
@[simp] theorem failRun_hostFile (why : RunResult) (s : State) : (failRun why s).hostFile = s.hostFile := rfl
@[simp] theorem failRun_hostPatch (why : RunResult) (s : State) : (failRun why s).hostPatch = s.hostPatch := rfl
@[simp] theorem failRun_hostWrite (why : RunResult) (s : State) : (failRun why s).hostWrite = s.hostWrite := rfl

/-! ### finishRun -/

@[simp] theorem finishRun_cfg (s : State) : (finishRun s).cfg = s.cfg := rfl
@[simp] theorem finishRun_cin (s : State) : (finishRun s).cin = s.cin := rfl
@[simp] theorem finishRun_N (s : State) : (finishRun s).N = s.N := rfl
@[simp] theorem finishRun_out (s : State) : (finishRun s).out = s.out := rfl
@[simp] theorem finishRun_c (s : State) : (finishRun s).c = s.c := rfl
@[simp] theorem finishRun_w (s : State) : (finishRun s).w = s.w := rfl
@[simp] theorem finishRun_i (s : State) : (finishRun s).i = s.i := rfl
@[simp] theorem finishRun_v (s : State) : (finishRun s).v = s.v := rfl
@[simp] theorem finishRun_n (s : State) : (finishRun s).n = s.n := rfl
@[simp] theorem finishRun_len (s : State) : (finishRun s).len = s.len := rfl
@[simp] theorem finishRun_k (s : State) : (finishRun s).k = s.k := rfl
@[simp] theorem finishRun_dphase (s : State) : (finishRun s).dphase = s.dphase := rfl
@[simp] theorem finishRun_cause (s : State) : (finishRun s).cause = s.cause := rfl
@[simp] theorem finishRun_acc (s : State) : (finishRun s).acc = s.acc := rfl
@[simp] theorem finishRun_rem (s : State) : (finishRun s).rem = s.rem := rfl
@[simp] theorem finishRun_j (s : State) : (finishRun s).j = s.j := rfl
@[simp] theorem finishRun_p (s : State) : (finishRun s).p = s.p := rfl
@[simp] theorem finishRun_cphase (s : State) : (finishRun s).cphase = s.cphase := rfl
@[simp] theorem finishRun_crc (s : State) : (finishRun s).crc = s.crc := rfl
@[simp] theorem finishRun_crcOk (s : State) : (finishRun s).crcOk = s.crcOk := rfl
@[simp] theorem finishRun_pphase (s : State) : (finishRun s).pphase = .P_DONE := rfl
@[simp] theorem finishRun_result (s : State) : (finishRun s).result = .OK := rfl
@[simp] theorem finishRun_patchReq (s : State) : (finishRun s).patchReq = s.patchReq := rfl
@[simp] theorem finishRun_hostFile (s : State) : (finishRun s).hostFile = s.hostFile := rfl
@[simp] theorem finishRun_hostPatch (s : State) : (finishRun s).hostPatch = s.hostPatch := rfl
@[simp] theorem finishRun_hostWrite (s : State) : (finishRun s).hostWrite = s.hostWrite := rfl

/-! ### resetDecoder -/

@[simp] theorem resetDecoder_cfg (s : State) : (resetDecoder s).cfg = s.cfg := rfl
@[simp] theorem resetDecoder_cin (s : State) : (resetDecoder s).cin = s.cin := rfl
@[simp] theorem resetDecoder_N (s : State) : (resetDecoder s).N = s.N := rfl
@[simp] theorem resetDecoder_out (s : State) : (resetDecoder s).out = [] := rfl
@[simp] theorem resetDecoder_c (s : State) : (resetDecoder s).c = 0 := rfl
@[simp] theorem resetDecoder_w (s : State) : (resetDecoder s).w = 0 := rfl
@[simp] theorem resetDecoder_i (s : State) : (resetDecoder s).i = 0 := rfl
@[simp] theorem resetDecoder_v (s : State) : (resetDecoder s).v = 0 := rfl
@[simp] theorem resetDecoder_n (s : State) : (resetDecoder s).n = 0 := rfl
@[simp] theorem resetDecoder_len (s : State) : (resetDecoder s).len = 0 := rfl
@[simp] theorem resetDecoder_k (s : State) : (resetDecoder s).k = 0 := rfl
@[simp] theorem resetDecoder_dphase (s : State) : (resetDecoder s).dphase = .IDLE := rfl
@[simp] theorem resetDecoder_cause (s : State) : (resetDecoder s).cause = .NONE := rfl
@[simp] theorem resetDecoder_acc (s : State) : (resetDecoder s).acc = s.acc := rfl
@[simp] theorem resetDecoder_rem (s : State) : (resetDecoder s).rem = s.rem := rfl
@[simp] theorem resetDecoder_j (s : State) : (resetDecoder s).j = s.j := rfl
@[simp] theorem resetDecoder_p (s : State) : (resetDecoder s).p = s.p := rfl
@[simp] theorem resetDecoder_cphase (s : State) : (resetDecoder s).cphase = s.cphase := rfl
@[simp] theorem resetDecoder_crc (s : State) : (resetDecoder s).crc = s.crc := rfl
@[simp] theorem resetDecoder_crcOk (s : State) : (resetDecoder s).crcOk = s.crcOk := rfl
@[simp] theorem resetDecoder_pphase (s : State) : (resetDecoder s).pphase = s.pphase := rfl
@[simp] theorem resetDecoder_result (s : State) : (resetDecoder s).result = s.result := rfl
@[simp] theorem resetDecoder_patchReq (s : State) : (resetDecoder s).patchReq = s.patchReq := rfl
@[simp] theorem resetDecoder_hostFile (s : State) : (resetDecoder s).hostFile = s.hostFile := rfl
@[simp] theorem resetDecoder_hostPatch (s : State) : (resetDecoder s).hostPatch = s.hostPatch := rfl
@[simp] theorem resetDecoder_hostWrite (s : State) : (resetDecoder s).hostWrite = s.hostWrite := rfl

/-! ### fetched -/

@[simp] theorem fetched_cfg (b : Byte) (s : State) : (fetched b s).cfg = s.cfg := rfl
@[simp] theorem fetched_cin (b : Byte) (s : State) : (fetched b s).cin = s.cin := rfl
@[simp] theorem fetched_N (b : Byte) (s : State) : (fetched b s).N = s.N := rfl
@[simp] theorem fetched_out (b : Byte) (s : State) : (fetched b s).out = s.out := rfl
@[simp] theorem fetched_c (b : Byte) (s : State) : (fetched b s).c = s.c + 1 := rfl
@[simp] theorem fetched_w (b : Byte) (s : State) : (fetched b s).w = s.w := rfl
@[simp] theorem fetched_i (b : Byte) (s : State) : (fetched b s).i = s.i + 1 := rfl
@[simp] theorem fetched_v (b : Byte) (s : State) : (fetched b s).v = b := rfl
@[simp] theorem fetched_n (b : Byte) (s : State) : (fetched b s).n = s.n := rfl
@[simp] theorem fetched_len (b : Byte) (s : State) : (fetched b s).len = s.len := rfl
@[simp] theorem fetched_k (b : Byte) (s : State) : (fetched b s).k = s.k := rfl
@[simp] theorem fetched_dphase (b : Byte) (s : State) : (fetched b s).dphase = s.dphase := rfl
@[simp] theorem fetched_cause (b : Byte) (s : State) : (fetched b s).cause = s.cause := rfl
@[simp] theorem fetched_acc (b : Byte) (s : State) : (fetched b s).acc = s.acc := rfl
@[simp] theorem fetched_rem (b : Byte) (s : State) : (fetched b s).rem = s.rem := rfl
@[simp] theorem fetched_j (b : Byte) (s : State) : (fetched b s).j = s.j := rfl
@[simp] theorem fetched_p (b : Byte) (s : State) : (fetched b s).p = s.p := rfl
@[simp] theorem fetched_cphase (b : Byte) (s : State) : (fetched b s).cphase = s.cphase := rfl
@[simp] theorem fetched_crc (b : Byte) (s : State) : (fetched b s).crc = s.crc := rfl
@[simp] theorem fetched_crcOk (b : Byte) (s : State) : (fetched b s).crcOk = s.crcOk := rfl
@[simp] theorem fetched_pphase (b : Byte) (s : State) : (fetched b s).pphase = s.pphase := rfl
@[simp] theorem fetched_result (b : Byte) (s : State) : (fetched b s).result = s.result := rfl
@[simp] theorem fetched_patchReq (b : Byte) (s : State) : (fetched b s).patchReq = s.patchReq := rfl
@[simp] theorem fetched_hostFile (b : Byte) (s : State) : (fetched b s).hostFile = s.hostFile := rfl
@[simp] theorem fetched_hostPatch (b : Byte) (s : State) : (fetched b s).hostPatch = s.hostPatch := rfl
@[simp] theorem fetched_hostWrite (b : Byte) (s : State) : (fetched b s).hostWrite = s.hostWrite := rfl

/-! ### byteDone -/

@[simp] theorem byteDone_cfg (s : State) : (byteDone s).cfg = s.cfg := rfl
@[simp] theorem byteDone_cin (s : State) : (byteDone s).cin = s.cin := rfl
@[simp] theorem byteDone_N (s : State) : (byteDone s).N = s.N := rfl
@[simp] theorem byteDone_out (s : State) : (byteDone s).out = s.out := rfl
@[simp] theorem byteDone_c (s : State) : (byteDone s).c = s.c := rfl
@[simp] theorem byteDone_w (s : State) : (byteDone s).w = s.w + 1 := rfl
@[simp] theorem byteDone_i (s : State) : (byteDone s).i = s.i := rfl
@[simp] theorem byteDone_v (s : State) : (byteDone s).v = s.v := rfl
@[simp] theorem byteDone_n (s : State) : (byteDone s).n = s.n := rfl
@[simp] theorem byteDone_len (s : State) : (byteDone s).len = s.len := rfl
@[simp] theorem byteDone_k (s : State) : (byteDone s).k = s.k - 1 := rfl
@[simp] theorem byteDone_dphase (s : State) : (byteDone s).dphase = if s.k = 1 then .TOP else s.dphase := rfl
@[simp] theorem byteDone_cause (s : State) : (byteDone s).cause = s.cause := rfl
@[simp] theorem byteDone_acc (s : State) : (byteDone s).acc = s.acc := rfl
@[simp] theorem byteDone_rem (s : State) : (byteDone s).rem = s.rem := rfl
@[simp] theorem byteDone_j (s : State) : (byteDone s).j = s.j := rfl
@[simp] theorem byteDone_p (s : State) : (byteDone s).p = s.p := rfl
@[simp] theorem byteDone_cphase (s : State) : (byteDone s).cphase = s.cphase := rfl
@[simp] theorem byteDone_crc (s : State) : (byteDone s).crc = s.crc := rfl
@[simp] theorem byteDone_crcOk (s : State) : (byteDone s).crcOk = s.crcOk := rfl
@[simp] theorem byteDone_pphase (s : State) : (byteDone s).pphase = s.pphase := rfl
@[simp] theorem byteDone_result (s : State) : (byteDone s).result = s.result := rfl
@[simp] theorem byteDone_patchReq (s : State) : (byteDone s).patchReq = s.patchReq := rfl
@[simp] theorem byteDone_hostFile (s : State) : (byteDone s).hostFile = s.hostFile := rfl
@[simp] theorem byteDone_hostPatch (s : State) : (byteDone s).hostPatch = s.hostPatch := rfl
@[simp] theorem byteDone_hostWrite (s : State) : (byteDone s).hostWrite = s.hostWrite := rfl

/-! ### litEntry -/

@[simp] theorem litEntry_cfg (s : State) : (litEntry s).cfg = s.cfg := rfl
@[simp] theorem litEntry_cin (s : State) : (litEntry s).cin = s.cin := rfl
@[simp] theorem litEntry_N (s : State) : (litEntry s).N = s.N := rfl
@[simp] theorem litEntry_out (s : State) : (litEntry s).out = s.out := rfl
@[simp] theorem litEntry_c (s : State) : (litEntry s).c = s.c := rfl
@[simp] theorem litEntry_w (s : State) : (litEntry s).w = s.w := rfl
@[simp] theorem litEntry_i (s : State) : (litEntry s).i = s.i := rfl
@[simp] theorem litEntry_v (s : State) : (litEntry s).v = s.v := rfl
@[simp] theorem litEntry_n (s : State) : (litEntry s).n = s.n := rfl
@[simp] theorem litEntry_len (s : State) : (litEntry s).len = s.len := rfl
@[simp] theorem litEntry_k (s : State) : (litEntry s).k = (sext8 s.v).toNat + 1 := rfl
@[simp] theorem litEntry_dphase (s : State) : (litEntry s).dphase = .LITCOPY := rfl
@[simp] theorem litEntry_cause (s : State) : (litEntry s).cause = s.cause := rfl
@[simp] theorem litEntry_acc (s : State) : (litEntry s).acc = s.acc := rfl
@[simp] theorem litEntry_rem (s : State) : (litEntry s).rem = s.rem := rfl
@[simp] theorem litEntry_j (s : State) : (litEntry s).j = s.j := rfl
@[simp] theorem litEntry_p (s : State) : (litEntry s).p = s.p := rfl
@[simp] theorem litEntry_cphase (s : State) : (litEntry s).cphase = s.cphase := rfl
@[simp] theorem litEntry_crc (s : State) : (litEntry s).crc = s.crc := rfl
@[simp] theorem litEntry_crcOk (s : State) : (litEntry s).crcOk = s.crcOk := rfl
@[simp] theorem litEntry_pphase (s : State) : (litEntry s).pphase = s.pphase := rfl
@[simp] theorem litEntry_result (s : State) : (litEntry s).result = s.result := rfl
@[simp] theorem litEntry_patchReq (s : State) : (litEntry s).patchReq = s.patchReq := rfl
@[simp] theorem litEntry_hostFile (s : State) : (litEntry s).hostFile = s.hostFile := rfl
@[simp] theorem litEntry_hostPatch (s : State) : (litEntry s).hostPatch = s.hostPatch := rfl
@[simp] theorem litEntry_hostWrite (s : State) : (litEntry s).hostWrite = s.hostWrite := rfl

/-! ### decStart -/

@[simp] theorem decStart_cfg (s : State) : (decStart s).cfg = s.cfg := rfl
@[simp] theorem decStart_cin (s : State) : (decStart s).cin = s.cin := rfl
@[simp] theorem decStart_N (s : State) : (decStart s).N = s.N := rfl
@[simp] theorem decStart_out (s : State) : (decStart s).out = s.out := rfl
@[simp] theorem decStart_c (s : State) : (decStart s).c = s.c := rfl
@[simp] theorem decStart_w (s : State) : (decStart s).w = s.w := rfl
@[simp] theorem decStart_i (s : State) : (decStart s).i = s.i := rfl
@[simp] theorem decStart_v (s : State) : (decStart s).v = s.v := rfl
@[simp] theorem decStart_n (s : State) : (decStart s).n = s.n := rfl
@[simp] theorem decStart_len (s : State) : (decStart s).len = s.len := rfl
@[simp] theorem decStart_k (s : State) : (decStart s).k = s.k := rfl
@[simp] theorem decStart_dphase (s : State) : (decStart s).dphase = .TOP := rfl
@[simp] theorem decStart_cause (s : State) : (decStart s).cause = s.cause := rfl
@[simp] theorem decStart_acc (s : State) : (decStart s).acc = s.acc := rfl
@[simp] theorem decStart_rem (s : State) : (decStart s).rem = s.rem := rfl
@[simp] theorem decStart_j (s : State) : (decStart s).j = s.j := rfl
@[simp] theorem decStart_p (s : State) : (decStart s).p = s.p := rfl
@[simp] theorem decStart_cphase (s : State) : (decStart s).cphase = s.cphase := rfl
@[simp] theorem decStart_crc (s : State) : (decStart s).crc = s.crc := rfl
@[simp] theorem decStart_crcOk (s : State) : (decStart s).crcOk = s.crcOk := rfl
@[simp] theorem decStart_pphase (s : State) : (decStart s).pphase = s.pphase := rfl
@[simp] theorem decStart_result (s : State) : (decStart s).result = s.result := rfl
@[simp] theorem decStart_patchReq (s : State) : (decStart s).patchReq = s.patchReq := rfl
@[simp] theorem decStart_hostFile (s : State) : (decStart s).hostFile = s.hostFile := rfl
@[simp] theorem decStart_hostPatch (s : State) : (decStart s).hostPatch = s.hostPatch := rfl
@[simp] theorem decStart_hostWrite (s : State) : (decStart s).hostWrite = s.hostWrite := rfl

/-! ### crcStart -/

@[simp] theorem crcStart_cfg (s : State) : (crcStart s).cfg = s.cfg := rfl
@[simp] theorem crcStart_cin (s : State) : (crcStart s).cin = s.cin := rfl
@[simp] theorem crcStart_N (s : State) : (crcStart s).N = s.N := rfl
@[simp] theorem crcStart_out (s : State) : (crcStart s).out = s.out := rfl
@[simp] theorem crcStart_c (s : State) : (crcStart s).c = s.c := rfl
@[simp] theorem crcStart_w (s : State) : (crcStart s).w = s.w := rfl
@[simp] theorem crcStart_i (s : State) : (crcStart s).i = s.i := rfl
@[simp] theorem crcStart_v (s : State) : (crcStart s).v = s.v := rfl
@[simp] theorem crcStart_n (s : State) : (crcStart s).n = s.n := rfl
@[simp] theorem crcStart_len (s : State) : (crcStart s).len = s.len := rfl
@[simp] theorem crcStart_k (s : State) : (crcStart s).k = s.k := rfl
@[simp] theorem crcStart_dphase (s : State) : (crcStart s).dphase = s.dphase := rfl
@[simp] theorem crcStart_cause (s : State) : (crcStart s).cause = s.cause := rfl
@[simp] theorem crcStart_acc (s : State) : (crcStart s).acc = s.cfg.CRC_INIT := rfl
@[simp] theorem crcStart_rem (s : State) : (crcStart s).rem = s.rem := rfl
@[simp] theorem crcStart_j (s : State) : (crcStart s).j = s.j := rfl
@[simp] theorem crcStart_p (s : State) : (crcStart s).p = 0 := rfl
@[simp] theorem crcStart_cphase (s : State) : (crcStart s).cphase = .C_LOAD := rfl
@[simp] theorem crcStart_crc (s : State) : (crcStart s).crc = s.crc := rfl
@[simp] theorem crcStart_crcOk (s : State) : (crcStart s).crcOk = s.crcOk := rfl
@[simp] theorem crcStart_pphase (s : State) : (crcStart s).pphase = s.pphase := rfl
@[simp] theorem crcStart_result (s : State) : (crcStart s).result = s.result := rfl
@[simp] theorem crcStart_patchReq (s : State) : (crcStart s).patchReq = s.patchReq := rfl
@[simp] theorem crcStart_hostFile (s : State) : (crcStart s).hostFile = s.hostFile := rfl
@[simp] theorem crcStart_hostPatch (s : State) : (crcStart s).hostPatch = s.hostPatch := rfl
@[simp] theorem crcStart_hostWrite (s : State) : (crcStart s).hostWrite = s.hostWrite := rfl

/-! ### crcFinal -/

@[simp] theorem crcFinal_cfg (s : State) : (crcFinal s).cfg = s.cfg := rfl
@[simp] theorem crcFinal_cin (s : State) : (crcFinal s).cin = s.cin := rfl
@[simp] theorem crcFinal_N (s : State) : (crcFinal s).N = s.N := rfl
@[simp] theorem crcFinal_out (s : State) : (crcFinal s).out = s.out := rfl
@[simp] theorem crcFinal_c (s : State) : (crcFinal s).c = s.c := rfl
@[simp] theorem crcFinal_w (s : State) : (crcFinal s).w = s.w := rfl
@[simp] theorem crcFinal_i (s : State) : (crcFinal s).i = s.i := rfl
@[simp] theorem crcFinal_v (s : State) : (crcFinal s).v = s.v := rfl
@[simp] theorem crcFinal_n (s : State) : (crcFinal s).n = s.n := rfl
@[simp] theorem crcFinal_len (s : State) : (crcFinal s).len = s.len := rfl
@[simp] theorem crcFinal_k (s : State) : (crcFinal s).k = s.k := rfl
@[simp] theorem crcFinal_dphase (s : State) : (crcFinal s).dphase = s.dphase := rfl
@[simp] theorem crcFinal_cause (s : State) : (crcFinal s).cause = s.cause := rfl
@[simp] theorem crcFinal_acc (s : State) : (crcFinal s).acc = s.acc := rfl
@[simp] theorem crcFinal_rem (s : State) : (crcFinal s).rem = s.rem := rfl
@[simp] theorem crcFinal_j (s : State) : (crcFinal s).j = s.j := rfl
@[simp] theorem crcFinal_p (s : State) : (crcFinal s).p = s.p := rfl
@[simp] theorem crcFinal_cphase (s : State) : (crcFinal s).cphase = .C_DONE := rfl
@[simp] theorem crcFinal_crc (s : State) : (crcFinal s).crc = ~~~ s.acc := rfl
@[simp] theorem crcFinal_crcOk (s : State) : (crcFinal s).crcOk = s.crcOk := rfl
@[simp] theorem crcFinal_pphase (s : State) : (crcFinal s).pphase = s.pphase := rfl
@[simp] theorem crcFinal_result (s : State) : (crcFinal s).result = s.result := rfl
@[simp] theorem crcFinal_patchReq (s : State) : (crcFinal s).patchReq = s.patchReq := rfl
@[simp] theorem crcFinal_hostFile (s : State) : (crcFinal s).hostFile = s.hostFile := rfl
@[simp] theorem crcFinal_hostPatch (s : State) : (crcFinal s).hostPatch = s.hostPatch := rfl
@[simp] theorem crcFinal_hostWrite (s : State) : (crcFinal s).hostWrite = s.hostWrite := rfl

/-! ### crcNext -/

@[simp] theorem crcNext_cfg (s : State) : (crcNext s).cfg = s.cfg := rfl
@[simp] theorem crcNext_cin (s : State) : (crcNext s).cin = s.cin := rfl
@[simp] theorem crcNext_N (s : State) : (crcNext s).N = s.N := rfl
@[simp] theorem crcNext_out (s : State) : (crcNext s).out = s.out := rfl
@[simp] theorem crcNext_c (s : State) : (crcNext s).c = s.c := rfl
@[simp] theorem crcNext_w (s : State) : (crcNext s).w = s.w := rfl
@[simp] theorem crcNext_i (s : State) : (crcNext s).i = s.i := rfl
@[simp] theorem crcNext_v (s : State) : (crcNext s).v = s.v := rfl
@[simp] theorem crcNext_n (s : State) : (crcNext s).n = s.n := rfl
@[simp] theorem crcNext_len (s : State) : (crcNext s).len = s.len := rfl
@[simp] theorem crcNext_k (s : State) : (crcNext s).k = s.k := rfl
@[simp] theorem crcNext_dphase (s : State) : (crcNext s).dphase = s.dphase := rfl
@[simp] theorem crcNext_cause (s : State) : (crcNext s).cause = s.cause := rfl
@[simp] theorem crcNext_acc (s : State) : (crcNext s).acc = s.acc := rfl
@[simp] theorem crcNext_rem (s : State) : (crcNext s).rem = s.rem := rfl
@[simp] theorem crcNext_j (s : State) : (crcNext s).j = s.j := rfl
@[simp] theorem crcNext_p (s : State) : (crcNext s).p = s.p + 1 := rfl
@[simp] theorem crcNext_cphase (s : State) : (crcNext s).cphase = .C_LOAD := rfl
@[simp] theorem crcNext_crc (s : State) : (crcNext s).crc = s.crc := rfl
@[simp] theorem crcNext_crcOk (s : State) : (crcNext s).crcOk = s.crcOk := rfl
@[simp] theorem crcNext_pphase (s : State) : (crcNext s).pphase = s.pphase := rfl
@[simp] theorem crcNext_result (s : State) : (crcNext s).result = s.result := rfl
@[simp] theorem crcNext_patchReq (s : State) : (crcNext s).patchReq = s.patchReq := rfl
@[simp] theorem crcNext_hostFile (s : State) : (crcNext s).hostFile = s.hostFile := rfl
@[simp] theorem crcNext_hostPatch (s : State) : (crcNext s).hostPatch = s.hostPatch := rfl
@[simp] theorem crcNext_hostWrite (s : State) : (crcNext s).hostWrite = s.hostWrite := rfl

/-! ### bitDone -/

@[simp] theorem bitDone_cfg (s : State) : (bitDone s).cfg = s.cfg := rfl
@[simp] theorem bitDone_cin (s : State) : (bitDone s).cin = s.cin := rfl
@[simp] theorem bitDone_N (s : State) : (bitDone s).N = s.N := rfl
@[simp] theorem bitDone_out (s : State) : (bitDone s).out = s.out := rfl
@[simp] theorem bitDone_c (s : State) : (bitDone s).c = s.c := rfl
@[simp] theorem bitDone_w (s : State) : (bitDone s).w = s.w := rfl
@[simp] theorem bitDone_i (s : State) : (bitDone s).i = s.i := rfl
@[simp] theorem bitDone_v (s : State) : (bitDone s).v = s.v := rfl
@[simp] theorem bitDone_n (s : State) : (bitDone s).n = s.n := rfl
@[simp] theorem bitDone_len (s : State) : (bitDone s).len = s.len := rfl
@[simp] theorem bitDone_k (s : State) : (bitDone s).k = s.k := rfl
@[simp] theorem bitDone_dphase (s : State) : (bitDone s).dphase = s.dphase := rfl
@[simp] theorem bitDone_cause (s : State) : (bitDone s).cause = s.cause := rfl
@[simp] theorem bitDone_acc (s : State) : (bitDone s).acc = (bitStep s.cfg.POLY (s.acc, s.rem)).1 := rfl
@[simp] theorem bitDone_rem (s : State) : (bitDone s).rem = (bitStep s.cfg.POLY (s.acc, s.rem)).2 := rfl
@[simp] theorem bitDone_j (s : State) : (bitDone s).j = s.j + 1 := rfl
@[simp] theorem bitDone_p (s : State) : (bitDone s).p = s.p := rfl
@[simp] theorem bitDone_cphase (s : State) : (bitDone s).cphase = s.cphase := rfl
@[simp] theorem bitDone_crc (s : State) : (bitDone s).crc = s.crc := rfl
@[simp] theorem bitDone_crcOk (s : State) : (bitDone s).crcOk = s.crcOk := rfl
@[simp] theorem bitDone_pphase (s : State) : (bitDone s).pphase = s.pphase := rfl
@[simp] theorem bitDone_result (s : State) : (bitDone s).result = s.result := rfl
@[simp] theorem bitDone_patchReq (s : State) : (bitDone s).patchReq = s.patchReq := rfl
@[simp] theorem bitDone_hostFile (s : State) : (bitDone s).hostFile = s.hostFile := rfl
@[simp] theorem bitDone_hostPatch (s : State) : (bitDone s).hostPatch = s.hostPatch := rfl
@[simp] theorem bitDone_hostWrite (s : State) : (bitDone s).hostWrite = s.hostWrite := rfl

/-! ### pipeBegin -/

@[simp] theorem pipeBegin_cfg (s : State) : (pipeBegin s).cfg = s.cfg := rfl
@[simp] theorem pipeBegin_cin (s : State) : (pipeBegin s).cin = s.cin := rfl
@[simp] theorem pipeBegin_N (s : State) : (pipeBegin s).N = s.N := rfl
@[simp] theorem pipeBegin_out (s : State) : (pipeBegin s).out = s.out := rfl
@[simp] theorem pipeBegin_c (s : State) : (pipeBegin s).c = s.c := rfl
@[simp] theorem pipeBegin_w (s : State) : (pipeBegin s).w = s.w := rfl
@[simp] theorem pipeBegin_i (s : State) : (pipeBegin s).i = s.i := rfl
@[simp] theorem pipeBegin_v (s : State) : (pipeBegin s).v = s.v := rfl
@[simp] theorem pipeBegin_n (s : State) : (pipeBegin s).n = s.n := rfl
@[simp] theorem pipeBegin_len (s : State) : (pipeBegin s).len = s.len := rfl
@[simp] theorem pipeBegin_k (s : State) : (pipeBegin s).k = s.k := rfl
@[simp] theorem pipeBegin_dphase (s : State) : (pipeBegin s).dphase = s.dphase := rfl
@[simp] theorem pipeBegin_cause (s : State) : (pipeBegin s).cause = s.cause := rfl
@[simp] theorem pipeBegin_acc (s : State) : (pipeBegin s).acc = s.acc := rfl
@[simp] theorem pipeBegin_rem (s : State) : (pipeBegin s).rem = s.rem := rfl
@[simp] theorem pipeBegin_j (s : State) : (pipeBegin s).j = s.j := rfl
@[simp] theorem pipeBegin_p (s : State) : (pipeBegin s).p = s.p := rfl
@[simp] theorem pipeBegin_cphase (s : State) : (pipeBegin s).cphase = s.cphase := rfl
@[simp] theorem pipeBegin_crc (s : State) : (pipeBegin s).crc = s.crc := rfl
@[simp] theorem pipeBegin_crcOk (s : State) : (pipeBegin s).crcOk = s.crcOk := rfl
@[simp] theorem pipeBegin_pphase (s : State) : (pipeBegin s).pphase = .P_LOAD := rfl
@[simp] theorem pipeBegin_result (s : State) : (pipeBegin s).result = s.result := rfl
@[simp] theorem pipeBegin_patchReq (s : State) : (pipeBegin s).patchReq = s.patchReq := rfl
@[simp] theorem pipeBegin_hostFile (s : State) : (pipeBegin s).hostFile = s.hostFile := rfl
@[simp] theorem pipeBegin_hostPatch (s : State) : (pipeBegin s).hostPatch = s.hostPatch := rfl
@[simp] theorem pipeBegin_hostWrite (s : State) : (pipeBegin s).hostWrite = s.hostWrite := rfl

/-! ### loadBuffer -/

@[simp] theorem loadBuffer_cfg (file : List Byte) (s : State) : (loadBuffer file s).cfg = s.cfg := rfl
@[simp] theorem loadBuffer_cin (file : List Byte) (s : State) : (loadBuffer file s).cin = Memory.ofBytes 0 (file.drop s.cfg.SRC_OFFSET) := rfl
@[simp] theorem loadBuffer_N (file : List Byte) (s : State) : (loadBuffer file s).N = BitVec.ofNat 32 (file.drop s.cfg.SRC_OFFSET).length := rfl
@[simp] theorem loadBuffer_out (file : List Byte) (s : State) : (loadBuffer file s).out = s.out := rfl
@[simp] theorem loadBuffer_c (file : List Byte) (s : State) : (loadBuffer file s).c = s.c := rfl
@[simp] theorem loadBuffer_w (file : List Byte) (s : State) : (loadBuffer file s).w = s.w := rfl
@[simp] theorem loadBuffer_i (file : List Byte) (s : State) : (loadBuffer file s).i = s.i := rfl
@[simp] theorem loadBuffer_v (file : List Byte) (s : State) : (loadBuffer file s).v = s.v := rfl
@[simp] theorem loadBuffer_n (file : List Byte) (s : State) : (loadBuffer file s).n = s.n := rfl
@[simp] theorem loadBuffer_len (file : List Byte) (s : State) : (loadBuffer file s).len = s.len := rfl
@[simp] theorem loadBuffer_k (file : List Byte) (s : State) : (loadBuffer file s).k = s.k := rfl
@[simp] theorem loadBuffer_dphase (file : List Byte) (s : State) : (loadBuffer file s).dphase = s.dphase := rfl
@[simp] theorem loadBuffer_cause (file : List Byte) (s : State) : (loadBuffer file s).cause = s.cause := rfl
@[simp] theorem loadBuffer_acc (file : List Byte) (s : State) : (loadBuffer file s).acc = s.acc := rfl
@[simp] theorem loadBuffer_rem (file : List Byte) (s : State) : (loadBuffer file s).rem = s.rem := rfl
@[simp] theorem loadBuffer_j (file : List Byte) (s : State) : (loadBuffer file s).j = s.j := rfl
@[simp] theorem loadBuffer_p (file : List Byte) (s : State) : (loadBuffer file s).p = s.p := rfl
@[simp] theorem loadBuffer_cphase (file : List Byte) (s : State) : (loadBuffer file s).cphase = s.cphase := rfl
@[simp] theorem loadBuffer_crc (file : List Byte) (s : State) : (loadBuffer file s).crc = s.crc := rfl
@[simp] theorem loadBuffer_crcOk (file : List Byte) (s : State) : (loadBuffer file s).crcOk = s.crcOk := rfl
@[simp] theorem loadBuffer_pphase (file : List Byte) (s : State) : (loadBuffer file s).pphase = s.pphase := rfl
@[simp] theorem loadBuffer_result (file : List Byte) (s : State) : (loadBuffer file s).result = s.result := rfl
@[simp] theorem loadBuffer_patchReq (file : List Byte) (s : State) : (loadBuffer file s).patchReq = s.patchReq := rfl
@[simp] theorem loadBuffer_hostFile (file : List Byte) (s : State) : (loadBuffer file s).hostFile = .pending := rfl
@[simp] theorem loadBuffer_hostPatch (file : List Byte) (s : State) : (loadBuffer file s).hostPatch = s.hostPatch := rfl
@[simp] theorem loadBuffer_hostWrite (file : List Byte) (s : State) : (loadBuffer file s).hostWrite = s.hostWrite := rfl

/-! ### patchHeader -/

@[simp] theorem patchHeader_cfg (s : State) : (patchHeader s).cfg = s.cfg := rfl
@[simp] theorem patchHeader_cin (s : State) : (patchHeader s).cin = s.cin := rfl
@[simp] theorem patchHeader_N (s : State) : (patchHeader s).N = s.N := rfl
@[simp] theorem patchHeader_out (s : State) : (patchHeader s).out = s.out.writeBytes 0 s.cfg.FIXED_HEADER.toList := rfl
@[simp] theorem patchHeader_c (s : State) : (patchHeader s).c = s.c := rfl
@[simp] theorem patchHeader_w (s : State) : (patchHeader s).w = s.w := rfl
@[simp] theorem patchHeader_i (s : State) : (patchHeader s).i = s.i := rfl
@[simp] theorem patchHeader_v (s : State) : (patchHeader s).v = s.v := rfl
@[simp] theorem patchHeader_n (s : State) : (patchHeader s).n = s.n := rfl
@[simp] theorem patchHeader_len (s : State) : (patchHeader s).len = s.len := rfl
@[simp] theorem patchHeader_k (s : State) : (patchHeader s).k = s.k := rfl
@[simp] theorem patchHeader_dphase (s : State) : (patchHeader s).dphase = s.dphase := rfl
@[simp] theorem patchHeader_cause (s : State) : (patchHeader s).cause = s.cause := rfl
@[simp] theorem patchHeader_acc (s : State) : (patchHeader s).acc = s.acc := rfl
@[simp] theorem patchHeader_rem (s : State) : (patchHeader s).rem = s.rem := rfl
@[simp] theorem patchHeader_j (s : State) : (patchHeader s).j = s.j := rfl
@[simp] theorem patchHeader_p (s : State) : (patchHeader s).p = s.p := rfl
@[simp] theorem patchHeader_cphase (s : State) : (patchHeader s).cphase = s.cphase := rfl
@[simp] theorem patchHeader_crc (s : State) : (patchHeader s).crc = s.crc := rfl
@[simp] theorem patchHeader_crcOk (s : State) : (patchHeader s).crcOk = s.crcOk := rfl
@[simp] theorem patchHeader_pphase (s : State) : (patchHeader s).pphase = s.pphase := rfl
@[simp] theorem patchHeader_result (s : State) : (patchHeader s).result = s.result := rfl
@[simp] theorem patchHeader_patchReq (s : State) : (patchHeader s).patchReq = s.patchReq := rfl
@[simp] theorem patchHeader_hostFile (s : State) : (patchHeader s).hostFile = s.hostFile := rfl
@[simp] theorem patchHeader_hostPatch (s : State) : (patchHeader s).hostPatch = s.hostPatch := rfl
@[simp] theorem patchHeader_hostWrite (s : State) : (patchHeader s).hostWrite = s.hostWrite := rfl

/-! ### samplePatch -/

@[simp] theorem samplePatch_cfg (yes : Bool) (s : State) : (samplePatch yes s).cfg = s.cfg := rfl
@[simp] theorem samplePatch_cin (yes : Bool) (s : State) : (samplePatch yes s).cin = s.cin := rfl
@[simp] theorem samplePatch_N (yes : Bool) (s : State) : (samplePatch yes s).N = s.N := rfl
@[simp] theorem samplePatch_out (yes : Bool) (s : State) : (samplePatch yes s).out = s.out := rfl
@[simp] theorem samplePatch_c (yes : Bool) (s : State) : (samplePatch yes s).c = s.c := rfl
@[simp] theorem samplePatch_w (yes : Bool) (s : State) : (samplePatch yes s).w = s.w := rfl
@[simp] theorem samplePatch_i (yes : Bool) (s : State) : (samplePatch yes s).i = s.i := rfl
@[simp] theorem samplePatch_v (yes : Bool) (s : State) : (samplePatch yes s).v = s.v := rfl
@[simp] theorem samplePatch_n (yes : Bool) (s : State) : (samplePatch yes s).n = s.n := rfl
@[simp] theorem samplePatch_len (yes : Bool) (s : State) : (samplePatch yes s).len = s.len := rfl
@[simp] theorem samplePatch_k (yes : Bool) (s : State) : (samplePatch yes s).k = s.k := rfl
@[simp] theorem samplePatch_dphase (yes : Bool) (s : State) : (samplePatch yes s).dphase = s.dphase := rfl
@[simp] theorem samplePatch_cause (yes : Bool) (s : State) : (samplePatch yes s).cause = s.cause := rfl
@[simp] theorem samplePatch_acc (yes : Bool) (s : State) : (samplePatch yes s).acc = s.acc := rfl
@[simp] theorem samplePatch_rem (yes : Bool) (s : State) : (samplePatch yes s).rem = s.rem := rfl
@[simp] theorem samplePatch_j (yes : Bool) (s : State) : (samplePatch yes s).j = s.j := rfl
@[simp] theorem samplePatch_p (yes : Bool) (s : State) : (samplePatch yes s).p = s.p := rfl
@[simp] theorem samplePatch_cphase (yes : Bool) (s : State) : (samplePatch yes s).cphase = s.cphase := rfl
@[simp] theorem samplePatch_crc (yes : Bool) (s : State) : (samplePatch yes s).crc = s.crc := rfl
@[simp] theorem samplePatch_crcOk (yes : Bool) (s : State) : (samplePatch yes s).crcOk = s.crcOk := rfl
@[simp] theorem samplePatch_pphase (yes : Bool) (s : State) : (samplePatch yes s).pphase = s.pphase := rfl
@[simp] theorem samplePatch_result (yes : Bool) (s : State) : (samplePatch yes s).result = s.result := rfl
@[simp] theorem samplePatch_patchReq (yes : Bool) (s : State) : (samplePatch yes s).patchReq = yes := rfl
@[simp] theorem samplePatch_hostFile (yes : Bool) (s : State) : (samplePatch yes s).hostFile = s.hostFile := rfl
@[simp] theorem samplePatch_hostPatch (yes : Bool) (s : State) : (samplePatch yes s).hostPatch = none := rfl
@[simp] theorem samplePatch_hostWrite (yes : Bool) (s : State) : (samplePatch yes s).hostWrite = s.hostWrite := rfl

/-! ### applyReset -/

@[simp] theorem applyReset_cfg (s : State) : (applyReset s).cfg = s.cfg := rfl
@[simp] theorem applyReset_cin (s : State) : (applyReset s).cin = s.cin := rfl
@[simp] theorem applyReset_N (s : State) : (applyReset s).N = s.N := rfl
@[simp] theorem applyReset_out (s : State) : (applyReset s).out = State.reset.out := rfl
@[simp] theorem applyReset_c (s : State) : (applyReset s).c = State.reset.c := rfl
@[simp] theorem applyReset_w (s : State) : (applyReset s).w = State.reset.w := rfl
@[simp] theorem applyReset_i (s : State) : (applyReset s).i = State.reset.i := rfl
@[simp] theorem applyReset_v (s : State) : (applyReset s).v = State.reset.v := rfl
@[simp] theorem applyReset_n (s : State) : (applyReset s).n = State.reset.n := rfl
@[simp] theorem applyReset_len (s : State) : (applyReset s).len = State.reset.len := rfl
@[simp] theorem applyReset_k (s : State) : (applyReset s).k = State.reset.k := rfl
@[simp] theorem applyReset_dphase (s : State) : (applyReset s).dphase = State.reset.dphase := rfl
@[simp] theorem applyReset_cause (s : State) : (applyReset s).cause = State.reset.cause := rfl
@[simp] theorem applyReset_acc (s : State) : (applyReset s).acc = State.reset.acc := rfl
@[simp] theorem applyReset_rem (s : State) : (applyReset s).rem = State.reset.rem := rfl
@[simp] theorem applyReset_j (s : State) : (applyReset s).j = State.reset.j := rfl
@[simp] theorem applyReset_p (s : State) : (applyReset s).p = State.reset.p := rfl
@[simp] theorem applyReset_cphase (s : State) : (applyReset s).cphase = State.reset.cphase := rfl
@[simp] theorem applyReset_crc (s : State) : (applyReset s).crc = State.reset.crc := rfl
@[simp] theorem applyReset_crcOk (s : State) : (applyReset s).crcOk = State.reset.crcOk := rfl
@[simp] theorem applyReset_pphase (s : State) : (applyReset s).pphase = State.reset.pphase := rfl
@[simp] theorem applyReset_result (s : State) : (applyReset s).result = State.reset.result := rfl
@[simp] theorem applyReset_patchReq (s : State) : (applyReset s).patchReq = State.reset.patchReq := rfl
@[simp] theorem applyReset_hostFile (s : State) : (applyReset s).hostFile = s.hostFile := rfl
@[simp] theorem applyReset_hostPatch (s : State) : (applyReset s).hostPatch = State.reset.hostPatch := rfl
@[simp] theorem applyReset_hostWrite (s : State) : (applyReset s).hostWrite = State.reset.hostWrite := rfl

/-! ### refEntry and refLen, which may stop -/

theorem refEntry_underflow {s : State} (h : s.w < distance s) :
    refEntry s = raiseStop .UNDERFLOW { s with n := distance s } := by
  rw [refEntry, if_pos h]

theorem refEntry_enter {s : State} (h : distance s ≤ s.w) :
    refEntry s = { s with n := distance s, dphase := .REFLEN } := by
  rw [refEntry, if_neg (by omega)]

@[simp] theorem refLen_none (s : State) : refLen none s = raiseStop .OVERRUN s := rfl

@[simp] theorem refLen_some (b : Byte) (s : State) :
    refLen (some b) s
      = { s with len := b, c := s.c + 1, k := b.toNat + 1, dphase := .REFCOPY } := rfl

end Sys2Proof.Machine
end

