-- ==== Sys2Proof/Laws/Ops.lean ====
section
/-! SUPPORT. For each shared operation of the machine, once, everything it can answer. -/

namespace Sys2Proof.Machine

/-! ### The access primitives -/

theorem readCin_some {s : State} {a : Nat} {b : Byte} :
    readCin s a = some b ↔ a < s.N.toNat ∧ s.cin.read a = b := by
  simp [readCin]

theorem readCin_none {s : State} {a : Nat} : readCin s a = none ↔ s.N.toNat ≤ a := by
  simp [readCin]

theorem readOut_some {s : State} {a : Nat} {b : Byte} :
    readOut s a = some b ↔ a < s.cfg.L.toNat ∧ s.out.read a = b := by
  simp [readOut]

theorem readOut_none {s : State} {a : Nat} : readOut s a = none ↔ s.cfg.L.toNat ≤ a := by
  simp [readOut]

theorem operandByte_some {s : State} {b b' : Byte} :
    operandByte s b = some b' ↔ s.c < s.N.toNat ∧ b = b' := by
  simp [operandByte]

theorem operandByte_none {s : State} {b : Byte} : operandByte s b = none ↔ s.N.toNat ≤ s.c := by
  simp [operandByte]

theorem readBack_some {s : State} {b : Byte} :
    readBack s = some b ↔ s.n ≤ s.w ∧ s.w - s.n < s.cfg.L.toNat ∧ s.out.read (s.w - s.n) = b := by
  unfold readBack readOut
  by_cases h : s.w < s.n
  · simp [h, Nat.not_le.2 h]
  · simp [h, Nat.not_lt.1 h]

/-- A write of `OUT` that answers a next state was in range and set that byte alone. -/
theorem writeOut_next {a : Nat} {b : Byte} {s t : State} :
    writeOut a b s = .next t ↔ a < s.cfg.L.toNat ∧ t = { s with out := s.out.write a b } := by
  unfold writeOut
  split
  · rename_i h; simp [h, eq_comm]
  · rename_i h; simp [h]

/-! ### The tests -/

theorem outputFull_true {s : State} : outputFull s = true ↔ s.cfg.L.toNat ≤ s.w := by simp [outputFull]

theorem outputFull_false {s : State} : outputFull s = false ↔ s.w < s.cfg.L.toNat := by simp [outputFull]

theorem loopTest_none {s : State} : loopTest s = none ↔ s.w < s.cfg.L.toNat ∧ capHit s = false := by
  unfold loopTest
  cases hf : outputFull s
  · cases hc : capHit s
    · simpa using outputFull_false.1 hf
    · simp
  · simpa using fun h => absurd (outputFull_true.1 hf) (by omega)

theorem loopTest_some {s : State} {why : Cause} :
    loopTest s = some why ↔
      (s.cfg.L.toNat ≤ s.w ∧ why = .FULL) ∨ (s.w < s.cfg.L.toNat ∧ capHit s = true ∧ why = .CAP) := by
  unfold loopTest
  cases hf : outputFull s
  · have hw := outputFull_false.1 hf
    cases hc : capHit s
    · simp [Nat.not_le.2 hw]
    · simp [hw, Nat.not_le.2 hw, eq_comm (a := why)]
  · have hw := outputFull_true.1 hf
    simp [hw, Nat.not_lt.2 hw, eq_comm (a := why)]

/-! ### The copy steps -/

/-- A copied byte was written at `w` in range, with `k ≥ 1`; `w` and `k` moved by one. -/
theorem copyByte_next {b : Byte} {s t : State} :
    copyByte b s = .next t ↔
      s.k ≠ 0 ∧ s.w < s.cfg.L.toNat ∧ t = byteDone { s with out := s.out.write s.w b } := by
  unfold copyByte writeOut
  by_cases hk : s.k = 0
  · simp [hk]
  · by_cases hw : s.w < s.cfg.L.toNat
    · simp [hk, hw, eq_comm]
    · simp [hk, hw]

/-- A copy step of a literal run stops with `FULL`, or with `OVERRUN`, or copies the byte it was
given. -/
theorem litCopy_next {src : Option Byte} {s t : State} :
    litCopy src s = .next t ↔
      (s.cfg.L.toNat ≤ s.w ∧ t = raiseStop .FULL s) ∨
      (s.w < s.cfg.L.toNat ∧ src = none ∧ t = raiseStop .OVERRUN s) ∨
      (∃ b, s.w < s.cfg.L.toNat ∧ src = some b ∧ s.k ≠ 0 ∧
        t = byteDone { s with c := s.c + 1, out := s.out.write s.w b }) := by
  unfold litCopy
  cases hf : outputFull s
  · have hw := outputFull_false.1 hf
    cases src with
    | none => simp [hw, eq_comm]
    | some b => simp [copyByte_next, hw]
  · have hw := outputFull_true.1 hf
    simp [hw, eq_comm, Nat.not_lt.2 hw]

/-- A copy step of a back-reference run stops with `FULL`, or copies the byte `n` positions back. -/
theorem refCopy_next {s t : State} :
    refCopy s = .next t ↔
      (s.cfg.L.toNat ≤ s.w ∧ t = raiseStop .FULL s) ∨
      (s.w < s.cfg.L.toNat ∧ s.n ≤ s.w ∧ s.k ≠ 0 ∧
        t = byteDone { s with out := s.out.write s.w (s.out.read (s.w - s.n)) }) := by
  unfold refCopy
  cases hf : outputFull s
  · have hw := outputFull_false.1 hf
    cases hr : readBack s with
    | none =>
      have : s.w < s.n := by
        unfold readBack readOut at hr
        split at hr
        · assumption
        · split at hr
          · cases hr
          · omega
      simp; omega
    | some b =>
      obtain ⟨hn, hl, rfl⟩ := readBack_some.1 hr
      simp [copyByte_next, hw, hn]
  · have hw := outputFull_true.1 hf
    simp [hw, eq_comm, Nat.not_lt.2 hw]

/-! ### The CRC engine -/

/-- CRC_LOAD finishes the checksum, or takes the byte at `p`. -/
theorem crcLoad_next {s t : State} :
    crcLoad s = .next t ↔
      (s.p = s.cfg.L.toNat ∧ t = crcFinal s) ∨
      (s.p < s.cfg.L.toNat ∧ t = { s with rem := s.out.read s.p, j := 0, cphase := .C_BIT }) := by
  unfold crcLoad readOut
  rcases Nat.lt_trichotomy s.p s.cfg.L.toNat with h | h | h
  · simp [h, Nat.ne_of_lt h, eq_comm]
  · simp [h, eq_comm]
  · simp [Nat.ne_of_gt h, Nat.not_lt.2 (le_of_lt h)]

/-- CRC_BIT takes one bit, and after the eighth turns to the next byte. -/
theorem crcBit_next {s t : State} :
    crcBit s = .next t ↔
      (s.j = 7 ∧ t = crcNext (bitDone s)) ∨ (s.j < 7 ∧ t = bitDone s) := by
  unfold crcBit
  rcases Nat.lt_trichotomy s.j 7 with h | h | h
  · simp [Nat.not_lt.2 (le_of_lt h), Nat.ne_of_lt h, h, eq_comm]
  · simp [h, eq_comm]
  · simp [h, Nat.ne_of_gt h, Nat.not_lt.2 (le_of_lt h)]

/-! ### The sequencer -/

/-- PIPE_LOAD waits, fails, or loads the buffer and begins step 2; it faults where `N` cannot say the
length. -/
theorem pipeLoad_cases (s : State) :
    (s.hostFile = .pending ∧ pipeLoad s = .next s) ∨
    (s.hostFile = .unreadable ∧
      pipeLoad s = .next (failRun .READ_FAIL { s with hostFile := .pending })) ∨
    (∃ file, s.hostFile = .contents file ∧ fileFits s.cfg s.hostFile = true ∧
      pipeLoad s = .next { resetDecoder (loadBuffer file s) with pphase := .P_DECODE }) ∨
    (fileFits s.cfg s.hostFile = false ∧ pipeLoad s = .fault .bufferTooLong) := by
  unfold pipeLoad
  cases hf : s.hostFile with
  | pending => simp
  | unreadable => simp
  | contents file => cases hl : fileFits s.cfg (.contents file) <;> simp [hl]

/-- A buffer that fits is counted exactly by `N`. -/
theorem loadBuffer_N_toNat {file : List Byte} {s : State}
    (h : fileFits s.cfg (.contents file) = true) :
    (loadBuffer file s).N.toNat = (file.drop s.cfg.SRC_OFFSET).length := by
  simp only [fileFits, decide_eq_true_eq] at h
  simp only [loadBuffer, BitVec.toNat_ofNat]
  exact Nat.mod_eq_of_lt h

/-- The end of step 2 goes on to the checksum or fails the run as malformed input. -/
theorem pipeDecoded_next {s t : State} :
    pipeDecoded s = .next t ↔
      (s.cause = .OVERRUN ∧ t = failRun .MALFORMED_INPUT s) ∨
      (s.cause ≠ .OVERRUN ∧ s.cause ≠ .NONE ∧ t = { s with pphase := .P_CHECK }) := by
  unfold pipeDecoded
  cases s.cause <;> simp [eq_comm]

/-- PIPE_CHECK goes on to step 4 or fails the run. -/
theorem pipeCheck_cases (s : State) :
    (s.crc = s.cfg.CRC_EXPECTED ∧ pipeCheck s = { s with crcOk := true, pphase := .P_PATCH }) ∨
    (s.crc ≠ s.cfg.CRC_EXPECTED ∧
      pipeCheck s = failRun .CHECKSUM_MISMATCH { s with crcOk := false }) := by
  by_cases h : s.crc = s.cfg.CRC_EXPECTED <;> simp [pipeCheck, crcMatches, h]

/-- Step 4 waits, goes on with `OUT` unchanged, refuses, or patches. -/
theorem pipePatch_cases (s : State) :
    (s.hostPatch = none ∧ pipePatch s = s) ∨
    (s.hostPatch = some false ∧
      pipePatch s = { samplePatch false s with pphase := .P_WRITE }) ∨
    (s.hostPatch = some true ∧ s.cfg.L.toNat < 16 ∧
      pipePatch s = failRun .PATCH_REFUSED (samplePatch true s)) ∨
    (s.hostPatch = some true ∧ 16 ≤ s.cfg.L.toNat ∧
      pipePatch s = { patchHeader (samplePatch true s) with pphase := .P_WRITE }) := by
  unfold pipePatch
  cases s.hostPatch with
  | none => simp
  | some yes =>
    cases yes with
    | false => simp
    | true =>
      by_cases h : s.cfg.L.toNat < 16
      · simp [h]
      · simp [h, Nat.not_lt.1 h]

/-- Step 5 waits, ends the run, or fails it. -/
theorem pipeWrite_cases (s : State) :
    (s.hostWrite = none ∧ pipeWrite s = s) ∨
    (s.hostWrite = some true ∧ pipeWrite s = finishRun { s with hostWrite := none }) ∨
    (s.hostWrite = some false ∧
      pipeWrite s = failRun .WRITE_FAIL { s with hostWrite := none }) := by
  unfold pipeWrite
  cases s.hostWrite with
  | none => simp
  | some ok => cases ok <;> simp

end Sys2Proof.Machine
end

