-- ==== Sys2Proof/Laws/PerInstr.lean ====
section
/-! SUPPORT. Statements about every instruction, one lemma per constructor of `Instr`. -/

namespace Sys2Proof.Laws

/-- A run is as long as its control byte says, and fits the longest run (30_encoding.md R83, R87). -/
def EncodedLength.Statement (i : Instr) : Prop :=
  i.wellFormed = true →
    (encode i).length = i.byteLength ∧ 2 ≤ i.byteLength ∧ i.byteLength ≤ longestRun ∧
      ∃ control rest, encode i = control :: rest ∧ runLength control = i.byteLength

theorem EncodedLength.lit (bytes : List Byte) : EncodedLength.Statement (.lit bytes) := by
  intro h
  simp only [Instr.wellFormed, Bool.and_eq_true, decide_eq_true_eq] at h
  obtain ⟨h1, h2⟩ := h
  have hn : (litControl bytes.length).toNat = bytes.length - 1 := by
    simp [litControl]; omega
  have hb : isRef (litControl bytes.length) = false := by
    rw [isRef, BitVec.getLsbD, hn]
    exact Nat.testBit_lt_two_pow (by omega)
  refine ⟨by simp [encode, Instr.byteLength], by simp [Instr.byteLength]; omega,
    by simp [Instr.byteLength, longestRun]; omega, _, _, rfl, ?_⟩
  simp only [runLength, hb, litCount, hn, Instr.byteLength]
  simp; omega

theorem EncodedLength.ref (n count : Nat) : EncodedLength.Statement (.ref n count) := by
  intro h
  simp only [Instr.wellFormed, Bool.and_eq_true, decide_eq_true_eq] at h
  obtain ⟨⟨h1, h2⟩, -⟩ := h
  have hb : isRef (refControl n) = true := by
    have : ∀ x : Fin 128, isRef (refControl (x.1 + 1)) = true := by decide
    have := this ⟨n - 1, by omega⟩
    rwa [show n - 1 + 1 = n by omega] at this
  exact ⟨rfl, le_refl 2, by simp [Instr.byteLength, longestRun], _, _, rfl, by simp [runLength, hb, Instr.byteLength]⟩

end Sys2Proof.Laws
end

