-- ==== Sys2Proof/Laws/Step.lean ====
section
/-! SUPPORT. Which operation a step performs, by the phases of the sequencer, the decoder and the CRC
engine; and, for each phase, everything the step can answer. -/

namespace Sys2Proof.Machine

/-! ### The step by phase -/

theorem coreStep_idle (top : State → Outcome) {s : State} (h : s.pphase = .P_IDLE) :
    coreStep top s = .next (pipeBegin s) := by rw [coreStep, h]

theorem coreStep_load (top : State → Outcome) {s : State} (h : s.pphase = .P_LOAD) :
    coreStep top s = pipeLoad s := by rw [coreStep, h]

theorem coreStep_decode (top : State → Outcome) {s : State} (h : s.pphase = .P_DECODE) :
    coreStep top s = decodeStep top s := by rw [coreStep, h]

theorem coreStep_check (top : State → Outcome) {s : State} (h : s.pphase = .P_CHECK) :
    coreStep top s = checkStep s := by rw [coreStep, h]

theorem coreStep_patch (top : State → Outcome) {s : State} (h : s.pphase = .P_PATCH) :
    coreStep top s = .next (pipePatch s) := by rw [coreStep, h]

theorem coreStep_write (top : State → Outcome) {s : State} (h : s.pphase = .P_WRITE) :
    coreStep top s = .next (pipeWrite s) := by rw [coreStep, h]

theorem coreStep_ended (top : State → Outcome) {s : State}
    (h : s.pphase = .P_DONE ∨ s.pphase = .P_FAILED) : coreStep top s = .next s := by
  rcases h with h | h <;> rw [coreStep, h]

/-- The two sizes of step differ only at the head of the decoder's loop. -/
theorem microStep_eq_step {s : State} (h : ¬ (s.pphase = .P_DECODE ∧ s.dphase = .TOP)) :
    microStep s = step s := by
  unfold microStep step coreStep
  cases hp : s.pphase <;> simp only
  cases hd : s.dphase <;> simp [decodeStep, hd]
  exact absurd ⟨hp, hd⟩ h

/-- The step at the head of the loop, a whole run at a time. -/
theorem step_top {s : State} (hp : s.pphase = .P_DECODE) (hd : s.dphase = .TOP) :
    step s = runTop s := by
  rw [step, coreStep_decode _ hp, decodeStep, hd]

/-- The step at the head of the loop, in the decomposition of R12. -/
theorem microStep_top {s : State} (hp : s.pphase = .P_DECODE) (hd : s.dphase = .TOP) :
    microStep s = microTop s := by
  rw [microStep, coreStep_decode _ hp, decodeStep, hd]

/-! ### The head of the loop -/

/-- What a TOP step of R12 can answer: a stop of the loop test, `OVERRUN`, or the entry of a run. -/
theorem microTop_cases (s : State) :
    (s.cfg.L.toNat ≤ s.w ∧ microTop s = .next (raiseStop .FULL s)) ∨
    (s.w < s.cfg.L.toNat ∧ capHit s = true ∧ microTop s = .next (raiseStop .CAP s)) ∨
    (s.w < s.cfg.L.toNat ∧ capHit s = false ∧ s.N.toNat ≤ s.c ∧
      microTop s = .next (raiseStop .OVERRUN s)) ∨
    (s.w < s.cfg.L.toNat ∧ capHit s = false ∧ s.c < s.N.toNat ∧ 128 ≤ (s.cin.read s.c).toNat ∧
      microTop s = .next (refEntry (fetched (s.cin.read s.c) s))) ∨
    (s.w < s.cfg.L.toNat ∧ capHit s = false ∧ s.c < s.N.toNat ∧ (s.cin.read s.c).toNat < 128 ∧
      microTop s = .next (litEntry (fetched (s.cin.read s.c) s))) := by
  unfold microTop
  cases ht : loopTest s with
  | some why =>
    rcases loopTest_some.1 ht with ⟨h, rfl⟩ | ⟨h, hc, rfl⟩
    · exact .inl ⟨h, rfl⟩
    · exact .inr (.inl ⟨h, hc, rfl⟩)
  | none =>
    obtain ⟨hw, hc⟩ := loopTest_none.1 ht
    cases hr : readCin s s.c with
    | none => exact .inr (.inr (.inl ⟨hw, hc, readCin_none.1 hr, rfl⟩))
    | some b =>
      obtain ⟨hn, rfl⟩ := readCin_some.1 hr
      by_cases hb : 128 ≤ (s.cin.read s.c).toNat
      · exact .inr (.inr (.inr (.inl ⟨hw, hc, hn, hb, by simp [(sext8_neg _).2 hb]⟩)))
      · refine .inr (.inr (.inr (.inr ⟨hw, hc, hn, by omega, ?_⟩)))
        have : ¬ sext8 (s.cin.read s.c) < 0 := fun h => hb ((sext8_neg _).1 h)
        simp [this]

/-- The window of a run always decodes, and to the run its control byte begins. -/
theorem decode_runWindow (s : State) :
    decode (runWindow s) =
      .ok (if 128 ≤ (s.cin.read s.c).toNat then
          .ref (refDistance (s.cin.read s.c)) (refCount (s.cin.read (s.c + 1)))
        else .lit ((List.range (litCount (s.cin.read s.c))).map fun t => s.cin.read (s.c + 1 + t)),
        []) := by
  by_cases hb : 128 ≤ (s.cin.read s.c).toNat
  · rw [if_pos hb]
    have : runWindow s = [s.cin.read s.c, s.cin.read (s.c + 1)] := by
      simp [runWindow, runLength, (isRef_iff _).2 hb, List.range_succ]
    rw [this, decode_ref hb]
  · have hlt : (s.cin.read s.c).toNat < 128 := by omega
    rw [if_neg hb]
    have : runWindow s = s.cin.read s.c ::
        (List.range (litCount (s.cin.read s.c))).map fun t => s.cin.read (s.c + 1 + t) := by
      rw [runWindow, runLength, (isRef_false _).2 hlt]
      simp only [Bool.false_eq_true, if_false, List.range_succ_eq_map, List.map_cons,
        Nat.add_zero, List.map_map]
      congr 1
      refine List.map_congr_left fun t _ => ?_
      simp only [Function.comp]
      congr 1
      omega
    rw [this, decode_lit hlt (by simp)]
    simp [List.take_of_length_le]

/-- What a step at the head of the loop can answer: a stop of the loop test, `OVERRUN`, or a whole
run. -/
theorem runTop_cases (s : State) :
    (s.cfg.L.toNat ≤ s.w ∧ runTop s = .next (raiseStop .FULL s)) ∨
    (s.w < s.cfg.L.toNat ∧ capHit s = true ∧ runTop s = .next (raiseStop .CAP s)) ∨
    (s.w < s.cfg.L.toNat ∧ capHit s = false ∧ s.N.toNat ≤ s.c ∧
      runTop s = .next (raiseStop .OVERRUN s)) ∨
    (s.w < s.cfg.L.toNat ∧ capHit s = false ∧ s.c < s.N.toNat ∧ 128 ≤ (s.cin.read s.c).toNat ∧
      runTop s = execRef (refDistance (s.cin.read s.c)) (refCount (s.cin.read (s.c + 1))) s) ∨
    (s.w < s.cfg.L.toNat ∧ capHit s = false ∧ s.c < s.N.toNat ∧ (s.cin.read s.c).toNat < 128 ∧
      runTop s = execLit
        ((List.range (litCount (s.cin.read s.c))).map fun t => s.cin.read (s.c + 1 + t)) s) := by
  unfold runTop
  cases ht : loopTest s with
  | some why =>
    rcases loopTest_some.1 ht with ⟨h, rfl⟩ | ⟨h, hc, rfl⟩
    · exact .inl ⟨h, rfl⟩
    · exact .inr (.inl ⟨h, hc, rfl⟩)
  | none =>
    obtain ⟨hw, hc⟩ := loopTest_none.1 ht
    cases hr : readCin s s.c with
    | none => exact .inr (.inr (.inl ⟨hw, hc, readCin_none.1 hr, rfl⟩))
    | some b =>
      obtain ⟨hn, -⟩ := readCin_some.1 hr
      by_cases hb : 128 ≤ (s.cin.read s.c).toNat
      · refine .inr (.inr (.inr (.inl ⟨hw, hc, hn, hb, ?_⟩)))
        simp only [decode_runWindow, if_pos hb]
        rfl
      · refine .inr (.inr (.inr (.inr ⟨hw, hc, hn, by omega, ?_⟩)))
        simp only [decode_runWindow, if_neg hb]
        rfl

end Sys2Proof.Machine
end

