-- ==== Sys2Proof/Laws/Runs.lean ====
section
/-! SUPPORT. What the copy loops of the two runs do as a whole: how many bytes they move, what they leave
in `OUT`, and how they end. -/

namespace Sys2Proof.Machine

/-! ### The literal run -/

/-- The copy steps of a literal run move as many bytes as fit the output and the stream; then the run is
complete, or the decoder has stopped (R130, R132). -/
theorem litRun_eq (bs : List Byte) (s : State) (hd : s.dphase = .LITCOPY)
    (hk : s.k = bs.length) (hne : bs ≠ []) {done : Nat}
    (hm : done = min bs.length (min (s.cfg.L.toNat - s.w) (s.N.toNat - s.c))) :
    litRun bs s = .next
      { s with
        out := s.out.writeBytes s.w (bs.take done), c := s.c + done, w := s.w + done
        k := s.k - done
        dphase := if done = bs.length then .TOP else .HALT
        cause := if done = bs.length then s.cause
          else if s.cfg.L.toNat - s.w ≤ s.N.toNat - s.c then .FULL else .OVERRUN } := by
  induction bs generalizing s done with
  | nil => exact absurd rfl hne
  | cons b bs ih =>
    simp only [List.length_cons] at hk hm ⊢
    by_cases hw : s.cfg.L.toNat ≤ s.w
    · have h0 : done = 0 := by omega
      have : litCopy (operandByte s b) s = .next (raiseStop .FULL s) :=
        litCopy_next.2 (.inl ⟨hw, rfl⟩)
      simp [litRun, this, h0, raiseStop, hw]
    · have hw' : s.w < s.cfg.L.toNat := by omega
      by_cases hc : s.N.toNat ≤ s.c
      · have h0 : done = 0 := by omega
        have : litCopy (operandByte s b) s = .next (raiseStop .OVERRUN s) :=
          litCopy_next.2 (.inr (.inl ⟨hw', operandByte_none.2 hc, rfl⟩))
        have hle : ¬ s.cfg.L.toNat - s.w ≤ s.N.toNat - s.c := by omega
        simp only [litRun, this, h0, raiseStop]
        simp [hle]
      · obtain ⟨d, rfl⟩ : ∃ d, done = d + 1 := ⟨done - 1, by omega⟩
        have copied : litCopy (operandByte s b) s
            = .next (byteDone { s with c := s.c + 1, out := s.out.write s.w b }) :=
          litCopy_next.2 (.inr (.inr ⟨b, hw', operandByte_some.2 ⟨by omega, rfl⟩, by omega, rfl⟩))
        rw [litRun, copied]
        cases bs with
        | nil =>
          have hd0 : d = 0 := by simp at hm; omega
          simp at hk
          simp [byteDone, hk, hd0]
        | cons b' bs' =>
          have hk1 : ¬ s.k = 1 := by simp at hk; omega
          have hph : (byteDone { s with c := s.c + 1, out := s.out.write s.w b }).dphase
              = .LITCOPY := by simp [byteDone, hk1, hd]
          simp only [hph, if_true]
          rw [ih (done := d) (byteDone { s with c := s.c + 1, out := s.out.write s.w b }) hph
            (by simp [byteDone]; simp at hk; omega) (by simp)
            (by simp [byteDone]; simp at hm; omega)]
          have e1 : s.cfg.L.toNat - (s.w + 1) ≤ s.N.toNat - (s.c + 1) ↔ s.cfg.L.toNat - s.w ≤ s.N.toNat - s.c := by
            omega
          have e2 : s.k - 1 - d = s.k - (d + 1) := by omega
          simp only [byteDone, e1, e2, List.take_succ_cons, Memory.writeBytes_cons,
            Nat.add_assoc, Nat.add_comm 1 d, add_left_inj, List.length_cons]

/-- Every case of `LIT` in one equation (R103, R130). -/
theorem execLit_eq (bytes : List Byte) (s : State) (hwf : (Instr.lit bytes).wellFormed = true)
    (hc : s.c < s.N.toNat) {done : Nat}
    (hm : done = min bytes.length (min (s.cfg.L.toNat - s.w) (s.N.toNat - (s.c + 1)))) :
    execLit bytes s = .next
      { s with
        out := s.out.writeBytes s.w (bytes.take done), c := s.c + 1 + done, w := s.w + done
        i := s.i + 1, v := litControl bytes.length, k := bytes.length - done
        dphase := if done = bytes.length then .TOP else .HALT
        cause := if done = bytes.length then s.cause
          else if s.cfg.L.toNat - s.w ≤ s.N.toNat - (s.c + 1) then .FULL else .OVERRUN } := by
  simp only [Instr.wellFormed, Bool.and_eq_true, decide_eq_true_eq] at hwf
  have hv : (litControl bytes.length).toNat = bytes.length - 1 :=
    litControl_toNat (by omega)
  have hk : (litEntry (fetched (litControl bytes.length) s)).k = bytes.length := by
    simp [sext8_of_lt (show (litControl bytes.length).toNat < 128 by omega), hv]; omega
  rw [execLit, operandByte_some.2 ⟨hc, rfl⟩]
  simp only
  rw [litRun_eq bytes _ rfl hk (by rintro rfl; simp at hwf) (done := done) (by simpa using hm)]
  rw [hk]
  rfl

/-- `LIT` where its control byte is missing. -/
theorem execLit_overrun (bytes : List Byte) {s : State} (hc : s.N.toNat ≤ s.c) :
    execLit bytes s = .next (raiseStop .OVERRUN s) := by
  rw [execLit, operandByte_none.2 hc]

/-! ### The back-reference run -/

/-- `OUT` after this many byte-serial copy steps from `n` positions back (R62, R123). -/
def copyBack (n : Nat) : Nat → Nat → Memory → Memory
  | 0, _, m => m
  | count + 1, w, m => copyBack n count (w + 1) (m.write w (m.read (w - n)))

theorem copyBack_wf (n count w : Nat) {m : Memory} (h : m.wf = true) :
    (copyBack n count w m).wf = true := by
  induction count generalizing w m with
  | zero => exact h
  | succ count ih => exact ih (w + 1) (Memory.wf_write h _ _)

theorem copyBack_below (n count w : Nat) {m : Memory} {bound : Nat} (h : m.below bound = true)
    (fits : w + count ≤ bound) : (copyBack n count w m).below bound = true := by
  induction count generalizing w m with
  | zero => exact h
  | succ count ih => exact ih (w + 1) (Memory.below_write h (by omega) _) (by omega)

/-- Byte-serial copying leaves what lies outside the copied range. -/
theorem copyBack_read_outside (n count w : Nat) {m : Memory} (h : m.wf = true) {a : Nat}
    (ha : a < w ∨ w + count ≤ a) : (copyBack n count w m).read a = m.read a := by
  induction count generalizing w m with
  | zero => rfl
  | succ count ih =>
    rw [copyBack, ih (w + 1) (Memory.wf_write h _ _) (by omega), Memory.read_write h,
      if_neg (by omega)]

/-- After byte-serial copying each copied byte equals the byte `n` positions before it (R62). -/
theorem copyBack_read_inside {n : Nat} (count w : Nat) {m : Memory} (h : m.wf = true)
    (hn : 1 ≤ n) (hw : n ≤ w) {a : Nat} (ha : w ≤ a) (ha' : a < w + count) :
    (copyBack n count w m).read a = (copyBack n count w m).read (a - n) := by
  induction count generalizing w m with
  | zero => omega
  | succ count ih =>
    by_cases e : a = w
    · subst e
      rw [copyBack, copyBack_read_outside n count (a + 1) (Memory.wf_write h _ _) (by omega),
        copyBack_read_outside n count (a + 1) (Memory.wf_write h _ _) (by omega),
        Memory.read_write h, if_pos rfl, Memory.read_write h, if_neg (by omega)]
    · rw [copyBack]
      exact ih (w + 1) (Memory.wf_write h _ _) (by omega) (by omega) (by omega)

/-- The copy steps of a back-reference run move as many bytes as fit the output; then the run is
complete, or the decoder has stopped with `FULL` (R123). -/
theorem refRun_eq (count : Nat) (s : State) (hd : s.dphase = .REFCOPY) (hk : s.k = count)
    (hc : 1 ≤ count) (hn : s.n ≤ s.w) {done : Nat} (hm : done = min count (s.cfg.L.toNat - s.w)) :
    refRun count s = .next
      { s with
        out := copyBack s.n done s.w s.out, w := s.w + done, k := s.k - done
        dphase := if done = count then .TOP else .HALT
        cause := if done = count then s.cause else .FULL } := by
  induction count generalizing s done with
  | zero => omega
  | succ count ih =>
    by_cases hw : s.cfg.L.toNat ≤ s.w
    · have h0 : done = 0 := by omega
      have : refCopy s = .next (raiseStop .FULL s) := refCopy_next.2 (.inl ⟨hw, rfl⟩)
      simp [refRun, this, h0, raiseStop, copyBack]
    · obtain ⟨d, rfl⟩ : ∃ d, done = d + 1 := ⟨done - 1, by omega⟩
      have copied : refCopy s = .next
          (byteDone { s with out := s.out.write s.w (s.out.read (s.w - s.n)) }) :=
        refCopy_next.2 (.inr ⟨by omega, hn, by omega, rfl⟩)
      rw [refRun, copied]
      by_cases h1 : count = 0
      · subst h1
        have hd0 : d = 0 := by omega
        have hk1 : s.k = 1 := by omega
        simp [byteDone, hk1, hd0, copyBack]
      · have hk1 : ¬ s.k = 1 := by omega
        have hph : (byteDone { s with out := s.out.write s.w (s.out.read (s.w - s.n)) }).dphase
            = .REFCOPY := by simp [byteDone, hk1, hd]
        simp only [hph, if_true]
        rw [ih (done := d) (byteDone { s with out := s.out.write s.w (s.out.read (s.w - s.n)) })
          hph (by simp [byteDone]; omega) (by omega) (by simp [byteDone]; omega)
          (by simp [byteDone]; omega)]
        have e2 : s.k - 1 - d = s.k - (d + 1) := by omega
        simp only [byteDone, e2, copyBack, Nat.add_assoc, Nat.add_comm 1 d, add_left_inj]

theorem refEntry_v {n : Nat} (s : State) (h1 : 1 ≤ n) (h2 : n ≤ 128) :
    distance (fetched (refControl n) s) = n := by
  have := refControl_toNat h1
  rw [distance_of_ge (by simp; omega)]
  simp; omega

/-- `REF` where its control byte is missing. -/
theorem execRef_overrun (n count : Nat) {s : State} (hc : s.N.toNat ≤ s.c) :
    execRef n count s = .next (raiseStop .OVERRUN s) := by
  rw [execRef, operandByte_none.2 hc]

/-- `REF` whose distance exceeds the bytes written so far (R121). -/
theorem execRef_underflow {n : Nat} (count : Nat) {s : State} (h1 : 1 ≤ n) (h2 : n ≤ 128)
    (hc : s.c < s.N.toNat) (hw : s.w < n) :
    execRef n count s
      = .next (raiseStop .UNDERFLOW { fetched (refControl n) s with n := n }) := by
  rw [execRef, operandByte_some.2 ⟨hc, rfl⟩]
  have := refEntry_v s h1 h2
  simp only
  rw [refEntry_underflow (by rw [this]; exact hw), this]
  rfl

/-- `REF` whose length byte is missing (R122). -/
theorem execRef_noLength {n : Nat} (count : Nat) {s : State} (h1 : 1 ≤ n) (h2 : n ≤ 128)
    (hc : s.c + 1 = s.N.toNat) (hw : n ≤ s.w) :
    execRef n count s = .next
      (raiseStop .OVERRUN { fetched (refControl n) s with n := n, dphase := .REFLEN }) := by
  rw [execRef, operandByte_some.2 ⟨by omega, rfl⟩]
  have := refEntry_v s h1 h2
  simp only
  rw [refEntry_enter (by rw [this]; exact hw), this]
  simp only [if_true]
  rw [refRest, operandByte_none.2 (by simp; omega)]
  rfl

/-- `REF` that reaches its copy steps (R120, R123). -/
theorem execRef_eq {n count : Nat} {s : State} (h1 : 1 ≤ n) (h2 : n ≤ 128) (h3 : 1 ≤ count)
    (h4 : count ≤ 256) (hc : s.c + 1 < s.N.toNat) (hw : n ≤ s.w) {done : Nat}
    (hm : done = min count (s.cfg.L.toNat - s.w)) :
    execRef n count s = .next
      { s with
        out := copyBack n done s.w s.out, c := s.c + 2, w := s.w + done, i := s.i + 1
        v := refControl n, n := n, len := refLengthByte count, k := count - done
        dphase := if done = count then .TOP else .HALT
        cause := if done = count then s.cause else .FULL } := by
  rw [execRef, operandByte_some.2 ⟨by omega, rfl⟩]
  have hv := refEntry_v s h1 h2
  have hl : (refLengthByte count).toNat + 1 = count := by
    rw [refLengthByte_toNat h4]; omega
  simp only
  rw [refEntry_enter (by rw [hv]; exact hw), hv]
  simp only [if_true]
  rw [refRest, operandByte_some.2 ⟨by simp; omega, rfl⟩]
  simp only [hl]
  have run := refRun_eq count
    (refLen (some (refLengthByte count))
      { fetched (refControl n) s with n := n, dphase := .REFLEN }) rfl hl h3 hw (done := done) hm
  rw [run]
  simp only [refLen_some, hl]
  rfl

/-! ### Several steps -/

/-- Steps taken one after the other from a reachable state lead to a reachable state. -/
theorem reachable_runSteps {m : Nat} {s t : State} (hs : Reachable s)
    (h : runSteps step m s = .next t) : Reachable t := by
  induction m generalizing s with
  | zero => cases h; exact hs
  | succ m ih =>
    rw [runSteps] at h
    cases hu : step s with
    | next u => rw [hu] at h; exact ih (.step s u hs hu) h
    | fault r => rw [hu] at h; cases h
    | refused r => rw [hu] at h; cases h

end Sys2Proof.Machine
end

