-- ==== Sys2Proof/Tests/Slice0.lean ====
section
/-! SUPPORT. The model's own tests: the well-formedness smoke test, decoding and single steps against the
vectors of 95_test_vectors.md, and for each statement with hypotheses a concrete state that meets them. -/

namespace Sys2Proof.Tests

open Sys2Proof.Machine

/-! ### Small states -/

/-- The next state of an outcome, if it has one. -/
def after (o : Machine.Outcome) : Option State :=
  match o with
  | .next t => some t
  | _ => none

/-- The decoder at the head of its loop, with this output length and stream. -/
def ready (L : Nat) (stream : List Byte) : State :=
  { State.reset with
    cfg := { Config.defaults with L := BitVec.ofNat 32 L }
    cin := Memory.ofBytes 0 stream
    N := BitVec.ofNat 32 stream.length
    pphase := .P_DECODE
    dphase := .TOP }

/-- The same with these bytes already written. -/
def readyAfter (L : Nat) (bytes stream : List Byte) : State :=
  { ready L stream with out := Memory.ofBytes 0 bytes, w := bytes.length }

/-- The CRC engine in this phase. -/
def engine (phase : CPhase) (L : Nat) : State :=
  { State.reset with
    cfg := { Config.defaults with L := BitVec.ofNat 32 L }
    pphase := .P_CHECK
    cphase := phase }

/-- The sequencer in this phase, on an output of this length. -/
def sequencer (phase : PPhase) (L : Nat) : State :=
  { State.reset with cfg := { Config.defaults with L := BitVec.ofNat 32 L }, pphase := phase }



/-! ### Well-formedness (R83, R84, R89) -/

theorem test_lit_empty_refused : (Instr.lit []).wellFormed = false := by decide
theorem test_lit_129_refused : (Instr.lit (List.replicate 129 0)).wellFormed = false := by
  decide +kernel
theorem test_ref_distance_0_refused : (Instr.ref 0 1).wellFormed = false := by decide
theorem test_ref_distance_129_refused : (Instr.ref 129 1).wellFormed = false := by decide
theorem test_ref_count_0_refused : (Instr.ref 1 0).wellFormed = false := by decide
theorem test_ref_count_257_refused : (Instr.ref 1 257).wellFormed = false := by decide
theorem test_largest_accepted : (Instr.lit (List.replicate 128 0)).wellFormed = true ∧
    (Instr.ref 128 256).wellFormed = true := by decide +kernel

/-! ### Decoding, from bytes written out by the tables of R82 to R84 -/

/-- The example of R89: `01 AA BB`. -/
theorem test_decode_lit : decode [0b00000001, 0xAA, 0xBB] = .ok (.lit [0xAA, 0xBB], []) := by rfl

/-- The example of R89: `FE 01`, and the ends of the ranges of R84. -/
theorem test_decode_ref : decode [0b11111110, 0b00000001] = .ok (.ref 2 2, []) ∧
    decode [0b10000000, 0b11111111] = .ok (.ref 128 256, []) ∧
    decode [0b11111111, 0b00000000] = .ok (.ref 1 1, []) := by
  refine ⟨rfl, rfl, rfl⟩

/-- A list of bytes is rejected by name only where it is too short (R86). -/
theorem test_decode_rejects : decode [] = .error .noControlByte ∧
    decode [0x80] = .error .noLengthByte ∧ decode [0x01, 0xAA] = .error .literalsMissing := by
  refine ⟨rfl, rfl, rfl⟩

/-- Table words: the first byte is the least significant, bytes above are zero. -/
theorem test_decode_table_word : decodeTableWord 8 0x03 = some (.lit [0, 0, 0, 0]) ∧
    decodeTableWord 16 0x01FE = some (.ref 2 2) ∧ decodeTableWord 8 0x80 = some (.ref 128 1) := by
  decide +kernel

/-- A placed word is what the next step runs. -/
theorem test_placed_word_runs :
    after (step (State.reset.withFetchWord 16 0x02FF))
      = after (exec (.ref 1 3) (State.reset.withFetchWord 16 0x02FF)) ∧
    after (step (State.reset.withFetchWord 8 0x01))
      = after (exec (.lit [0, 0]) (State.reset.withFetchWord 8 0x01)) := by decide +kernel

/-! ### Configuration and reset -/

/-- The defaults of R7 (X9, X10 of 95_test_vectors.md). -/
theorem test_default_configuration : Config.defaults.L = 262160 ∧ Config.defaults.CAP = 189406 ∧
    Config.defaults.CAP_KIND = .CURSOR ∧ Config.defaults.SRC_OFFSET = 76352 ∧
    Config.defaults.CRC_EXPECTED = 0x2A137974#32 ∧ Config.defaults.Legal ∧
    State.reset.cfg = Config.defaults := by decide

/-! ### One step of each run -/

/-- X1, V20: the literals are written at the write cursor; `c` advances by 4. -/
theorem test_lit_step : (after (step (ready 8 [0x02, 0x10, 0x20, 0x30]))).map
    (fun t => (t.out, t.c, t.w, t.i, t.dphase))
      = some (Memory.ofBytes 0 [0x10, 0x20, 0x30], 4, 3, 1, .TOP) := by decide

/-- V22: a literal run cut by the end of the buffer; V23: one whose bytes end. -/
theorem test_lit_stops : (after (step (ready 2 [0x03, 1, 2, 3, 4]))).map
    (fun t => (t.out, t.c, t.w, t.cause)) = some (Memory.ofBytes 0 [1, 2], 3, 2, .FULL) ∧
    (after (step (ready 8 [0x03, 1, 2]))).map
    (fun t => (t.out, t.c, t.w, t.cause)) = some (Memory.ofBytes 0 [1, 2], 3, 2, .OVERRUN) := by
  decide

/-- V27: an overlapping copy, count 5 from 2 back. -/
theorem test_ref_step : (after (step (readyAfter 8 [1, 2] [0xFE, 0x04]))).map
    (fun t => (t.out, t.c, t.w, t.k))
      = some (Memory.ofBytes 0 [1, 2, 1, 2, 1, 2, 1], 2, 7, 0) := by decide

/-- V37: underflow, the length byte unread; V29: a copy cut by the end of the buffer. -/
theorem test_ref_stops : (after (step (readyAfter 8 [0x11] [0xFE, 0x00, 0x22]))).map
    (fun t => (t.out, t.c, t.w, t.cause)) = some (Memory.ofBytes 0 [0x11], 1, 1, .UNDERFLOW) ∧
    (after (step (readyAfter 10 [1, 2, 3] [0xFD, 0x09]))).map
    (fun t => (t.out, t.c, t.k, t.cause))
      = some (Memory.ofBytes 0 [1, 2, 3, 1, 2, 3, 1, 2, 3, 1], 2, 3, .FULL) := by decide

/-- V35: `FULL` wins over `CAP`. -/
theorem test_full_before_cap : loopTest { ready 0 [] with c := 189406 } = some .FULL := by decide

/-! ### The CRC engine -/

/-- V14: the first two bit steps of the byte 01. -/
theorem test_bit_steps : bitStep 0xEDB88320 (0xFFFFFFFF, 0x01) = (0x7FFFFFFF, 0x00) ∧
    bitStep 0xEDB88320 (0x7FFFFFFF, 0x00) = (0xD2477CDF, 0x00) := by decide

/-- V1, V2, V4, V10. -/
theorem test_checksums :
    checksum Config.defaults [0x31, 0x32, 0x33, 0x34, 0x35, 0x36, 0x37, 0x38, 0x39]
      = 0xCBF43926#32 ∧
    checksum Config.defaults [] = 0#32 ∧ checksum Config.defaults [0xFF] = 0xFF000000#32 ∧
    checksum Config.defaults [0x80] = 0x3FBA6CAD#32 := by decide +kernel

/-! ### Witnesses: for each statement with hypotheses, states that meet them, clause by clause -/

theorem test_witness_EveryControlByteBeginsARun :
    (∃ (b : Byte) (tail : List Byte), b.toNat ≤ 0x7F ∧ b.toNat + 1 ≤ tail.length) ∧
    (∃ (b : Byte) (tail : List Byte), b.toNat ≤ 0x7F ∧ tail.length < b.toNat + 1) ∧
    (∃ (b l : Byte) (rest tail : List Byte), 0x80 ≤ b.toNat ∧ tail = l :: rest) ∧
    (∃ (b : Byte) (tail : List Byte), 0x80 ≤ b.toNat ∧ tail = []) :=
  ⟨⟨0x7F, List.replicate 128 0, by decide +kernel⟩, ⟨0x00, [], by decide⟩,
    ⟨0x80, 0xFF, [], [0xFF], by decide⟩, ⟨0xFF, [], by decide⟩⟩

theorem test_witness_EncodedRunDecodesToItself : (∃ i : Instr, i = .lit [0] ∧ i.wellFormed = true) ∧
    (∃ i : Instr, i = .ref 128 256 ∧ i.wellFormed = true) :=
  ⟨⟨_, rfl, by decide⟩, ⟨_, rfl, by decide⟩⟩

theorem test_witness_DecodedRunEncodesToWhatWasRead :
    decode [0x00, 0x55, 0xFF] = .ok (.lit [0x55], [0xFF]) ∧
    decode [0xFF, 0x00] = .ok (.ref 1 1, []) := ⟨rfl, rfl⟩

theorem test_witness_OutWriteSetsOneByte :
    (∃ s : State, s.out.wf = true ∧ 7 < s.cfg.L.toNat) ∧ (∃ s : State, s.out.wf = true ∧ s.cfg.L.toNat ≤ 8) :=
  ⟨⟨readyAfter 8 [5] [], by decide⟩, ⟨readyAfter 8 [5] [], by decide⟩⟩

theorem test_witness_StartTurnsToTheLoop :
    ∃ s : State, s.pphase = .P_DECODE ∧ s.dphase = .IDLE := ⟨sequencer .P_DECODE 8, by decide⟩

theorem test_witness_LoopTestStopsInOrder :
    (∃ s : State, s.pphase = .P_DECODE ∧ s.dphase = .TOP ∧ s.cfg.L.toNat ≤ s.w) ∧
    (∃ s : State, s.pphase = .P_DECODE ∧ s.dphase = .TOP ∧ s.w < s.cfg.L.toNat ∧
      s.cfg.CAP_KIND = .CURSOR ∧ s.cfg.CAP.toNat ≤ s.c) ∧
    (∃ s : State, s.pphase = .P_DECODE ∧ s.dphase = .TOP ∧ s.w < s.cfg.L.toNat ∧
      s.cfg.CAP_KIND = .ITER ∧ s.cfg.CAP.toNat ≤ s.i) ∧
    (∃ s : State, s.pphase = .P_DECODE ∧ s.dphase = .TOP ∧ s.w < s.cfg.L.toNat ∧
      (s.cfg.CAP_KIND = .CURSOR → s.c < s.cfg.CAP.toNat) ∧ (s.cfg.CAP_KIND = .ITER → s.i < s.cfg.CAP.toNat) ∧
      s.N.toNat ≤ s.c) :=
  ⟨⟨ready 0 [], by decide⟩, ⟨{ ready 8 [] with c := 189406 }, by decide⟩,
    ⟨{ ready 8 [] with cfg := { Config.defaults with CAP_KIND := .ITER, CAP := 0 } }, by decide⟩,
    ⟨ready 8 [], by decide⟩⟩

theorem test_witness_HeadOfLoopTestsThenFetches :
    (∃ s : State, s.pphase = .P_DECODE ∧ s.dphase = .TOP ∧ s.cfg.L.toNat ≤ s.w) ∧
    (∃ s : State, s.pphase = .P_DECODE ∧ s.dphase = .TOP ∧ s.w < s.cfg.L.toNat ∧ capHit s = true) ∧
    (∃ s : State, s.pphase = .P_DECODE ∧ s.dphase = .TOP ∧ s.w < s.cfg.L.toNat ∧ capHit s = false ∧
      s.N.toNat ≤ s.c) ∧
    (∃ (s : State) (count : Nat), s.pphase = .P_DECODE ∧ s.dphase = .TOP ∧ s.w < s.cfg.L.toNat ∧
      capHit s = false ∧ s.c < s.N.toNat ∧ 0 ≤ sext8 (s.cin.read s.c) ∧
      (count : Int) = sext8 (s.cin.read s.c) + 1) ∧
    (∃ (s : State) (n : Nat), s.pphase = .P_DECODE ∧ s.dphase = .TOP ∧ s.w < s.cfg.L.toNat ∧
      capHit s = false ∧ s.c < s.N.toNat ∧ sext8 (s.cin.read s.c) < 0 ∧
      (n : Int) = -(sext8 (s.cin.read s.c)) ∧ n ≤ s.w) ∧
    (∃ (s : State) (n : Nat), s.pphase = .P_DECODE ∧ s.dphase = .TOP ∧ s.w < s.cfg.L.toNat ∧
      capHit s = false ∧ s.c < s.N.toNat ∧ sext8 (s.cin.read s.c) < 0 ∧
      (n : Int) = -(sext8 (s.cin.read s.c)) ∧ s.w < n) :=
  ⟨⟨ready 0 [], by decide⟩, ⟨{ ready 8 [] with c := 189406 }, by decide⟩, ⟨ready 8 [], by decide⟩,
    ⟨ready 8 [0x7F], 128, by decide⟩, ⟨readyAfter 8 [5] [0xFF], 1, by decide⟩,
    ⟨readyAfter 8 [5] [0x80], 128, by decide⟩⟩

theorem test_witness_LengthByteIsRead :
    (∃ s : State, s.pphase = .P_DECODE ∧ s.dphase = .REFLEN ∧ s.c < s.N.toNat) ∧
    (∃ s : State, s.pphase = .P_DECODE ∧ s.dphase = .REFLEN ∧ s.N.toNat ≤ s.c) :=
  ⟨⟨{ readyAfter 8 [5] [0x02] with dphase := .REFLEN }, by decide⟩,
    ⟨{ readyAfter 8 [5] [] with dphase := .REFLEN }, by decide⟩⟩

theorem test_witness_RefCopyMovesOneByte :
    (∃ s : State, s.pphase = .P_DECODE ∧ s.dphase = .REFCOPY ∧ s.out.wf = true ∧ 1 ≤ s.k ∧
      s.n ≤ s.w ∧ s.cfg.L.toNat ≤ s.w) ∧
    (∃ s : State, s.pphase = .P_DECODE ∧ s.dphase = .REFCOPY ∧ s.out.wf = true ∧ 1 ≤ s.k ∧
      s.n ≤ s.w ∧ s.w < s.cfg.L.toNat) :=
  ⟨⟨{ readyAfter 1 [5] [] with n := 1, k := 1, dphase := .REFCOPY }, by decide⟩,
    ⟨{ readyAfter 2 [5] [] with n := 1, k := 1, dphase := .REFCOPY }, by decide⟩⟩

theorem test_witness_LitCopyMovesOneByte :
    (∃ s : State, s.pphase = .P_DECODE ∧ s.dphase = .LITCOPY ∧ s.out.wf = true ∧ 1 ≤ s.k ∧
      s.cfg.L.toNat ≤ s.w) ∧
    (∃ s : State, s.pphase = .P_DECODE ∧ s.dphase = .LITCOPY ∧ s.out.wf = true ∧ 1 ≤ s.k ∧
      s.w < s.cfg.L.toNat ∧ s.N.toNat ≤ s.c) ∧
    (∃ s : State, s.pphase = .P_DECODE ∧ s.dphase = .LITCOPY ∧ s.out.wf = true ∧ 1 ≤ s.k ∧
      s.w < s.cfg.L.toNat ∧ s.c < s.N.toNat) :=
  ⟨⟨{ readyAfter 1 [5] [7] with k := 1, dphase := .LITCOPY }, by decide⟩,
    ⟨{ readyAfter 2 [5] [] with k := 1, dphase := .LITCOPY }, by decide⟩,
    ⟨{ readyAfter 2 [5] [7] with k := 1, dphase := .LITCOPY }, by decide⟩⟩

theorem test_witness_StoppingStepWritesNothing :
    ∃ s t : State, s.pphase = .P_DECODE ∧ s.dphase ≠ .HALT ∧ microStep s = .next t ∧
      t.dphase = .HALT := ⟨ready 8 [0xFF], _, rfl, by decide, rfl, rfl⟩

theorem test_witness_StopsAreNotResumed :
    (∃ s t : State, s.pphase = .P_DONE ∧ step s = .next t) ∧
    (∃ s t : State, s.dphase = .HALT ∧ s.pphase ≠ .P_LOAD ∧ step s = .next t) ∧
    (∃ (move : HostMove) (s t : State), s.pphase = .P_FAILED ∧ hostMove move s = some t) :=
  ⟨⟨sequencer .P_DONE 8, _, rfl, rfl⟩,
    ⟨{ sequencer .P_DECODE 8 with dphase := .HALT, cause := .CAP }, _, rfl, by decide, rfl⟩,
    ⟨.reset, sequencer .P_FAILED 8, _, rfl, rfl⟩⟩

theorem test_witness_StepRunsTheDecodedInstruction :
    ∃ (s : State) (i : Instr) (rest : List Byte), s.pphase = .P_DECODE ∧ s.dphase = .TOP ∧
      s.w < s.cfg.L.toNat ∧ capHit s = false ∧ i.wellFormed = true ∧
      decode (streamFrom s) = .ok (i, rest) :=
  ⟨ready 8 [0x00, 0x55, 0xFF], .lit [0x55], [0xFF], rfl, rfl, by decide, by decide, by decide, rfl⟩

/-- A stream that ends inside its run: still an instruction is fetched. -/
theorem test_witness_EveryFetchRunsAnInstruction :
    ∃ s : State, s.pphase = .P_DECODE ∧ s.dphase = .TOP ∧ s.w < s.cfg.L.toNat ∧ capHit s = false ∧
      s.c < s.N.toNat := ⟨ready 8 [0x03, 1], by decide⟩

/-- A run that fits stream and buffer exactly. -/
theorem test_witness_LitRunCompletes :
    ∃ (bytes : List Byte) (s : State), (Instr.lit bytes).wellFormed = true ∧ s.out.wf = true ∧
      s.c + 1 + bytes.length ≤ s.N.toNat ∧ s.w + bytes.length ≤ s.cfg.L.toNat :=
  ⟨[1, 2], ready 2 [0x01, 1, 2], by decide⟩

theorem test_witness_LitRunCopiesUntilItEndsOrStops :
    (∃ (bytes : List Byte) (s : State), (Instr.lit bytes).wellFormed = true ∧ s.out.wf = true ∧
      s.N.toNat ≤ s.c) ∧
    (∃ (bytes : List Byte) (s : State), (Instr.lit bytes).wellFormed = true ∧ s.out.wf = true ∧
      s.c < s.N.toNat ∧ 1 = min bytes.length (min (s.cfg.L.toNat - s.w) (s.N.toNat - (s.c + 1)))) :=
  ⟨⟨[1], ready 2 [], by decide⟩, ⟨[1, 2], ready 1 [0x01, 1, 2], by decide⟩⟩

theorem test_witness_RefRunCompletes :
    ∃ (n count : Nat) (s : State), (Instr.ref n count).wellFormed = true ∧ s.out.wf = true ∧
      n ≤ s.w ∧ s.c + 2 ≤ s.N.toNat ∧ s.w + count ≤ s.cfg.L.toNat :=
  ⟨1, 2, readyAfter 3 [7] [0xFF, 0x01], by decide⟩

theorem test_witness_RefRunCopiesUntilItEndsOrStops :
    (∃ (n count : Nat) (s : State), (Instr.ref n count).wellFormed = true ∧ s.out.wf = true ∧
      s.N.toNat ≤ s.c) ∧
    (∃ (n count : Nat) (s : State), (Instr.ref n count).wellFormed = true ∧ s.out.wf = true ∧
      s.c < s.N.toNat ∧ s.w < n) ∧
    (∃ (n count : Nat) (s : State), (Instr.ref n count).wellFormed = true ∧ s.out.wf = true ∧
      s.c + 1 = s.N.toNat ∧ n ≤ s.w) ∧
    (∃ (n count : Nat) (s : State), (Instr.ref n count).wellFormed = true ∧ s.out.wf = true ∧
      s.c + 1 < s.N.toNat ∧ n ≤ s.w ∧ 1 = min count (s.cfg.L.toNat - s.w)) :=
  ⟨⟨1, 1, ready 3 [], by decide⟩, ⟨1, 1, ready 3 [0xFF], by decide⟩,
    ⟨1, 1, readyAfter 3 [7] [0xFF], by decide⟩, ⟨1, 2, readyAfter 2 [7] [0xFF, 0x01], by decide⟩⟩

theorem test_witness_RefRunRepeatsThePattern :
    ∃ (n count : Nat) (s t : State), (Instr.ref n count).wellFormed = true ∧ s.out.wf = true ∧
      n ≤ s.w ∧ s.c + 1 < s.N.toNat ∧ exec (.ref n count) s = .next t ∧ 0 < t.w - s.w :=
  ⟨1, 2, readyAfter 2 [7] [0xFF, 0x01], _, by decide, by decide, by decide, by decide, rfl,
    by decide⟩

theorem test_witness_RunsChangeOnlyDecoderState :
    (∃ (i : Instr) (s t : State), i.wellFormed = true ∧ s.out.wf = true ∧ exec i s = .next t ∧
      t.dphase = .TOP) ∧
    (∃ (i : Instr) (s t : State), i.wellFormed = true ∧ s.out.wf = true ∧ exec i s = .next t ∧
      t.dphase = .HALT) :=
  ⟨⟨.lit [1], ready 2 [0x00, 1], _, by decide, by decide, rfl, rfl⟩,
    ⟨.ref 1 1, ready 2 [0xFF, 0], _, by decide, by decide, rfl, rfl⟩⟩

theorem test_witness_SplitLiteralRunsWriteTheSame :
    ∃ (xs ys : List Byte) (s t u r : State), (Instr.lit (xs ++ ys)).wellFormed = true ∧
      xs ≠ [] ∧ ys ≠ [] ∧ s.c + 2 + (xs ++ ys).length ≤ s.N.toNat ∧
      s.w + (xs ++ ys).length ≤ s.cfg.L.toNat ∧ exec (.lit (xs ++ ys)) s = .next r ∧
      exec (.lit xs) s = .next t ∧ exec (.lit ys) t = .next u :=
  ⟨[1], [2], ready 2 [0x01, 1, 2, 0], _, _, _, by decide, by decide, by decide, by decide,
    by decide, rfl, rfl, rfl⟩

theorem test_witness_RunStepIsTheSmallStepsInOrder :
    ∃ s : State, s.pphase = .P_DECODE ∧ s.dphase = .TOP := ⟨ready 2 [0x01, 1, 2], by decide⟩

/-- For `EveryDecodeStopsInBoundedSteps` and `DecodeIsTheBigStepFunction`. -/
theorem test_witness_whole_decode :
    ∃ s : State, s.pphase = .P_DECODE ∧ s.dphase = .IDLE ∧ s.cause = .NONE ∧ s.c = 0 ∧ s.w = 0 ∧
      s.i = 0 ∧ s.out = [] := ⟨{ ready 8 [0x00, 0x55] with dphase := .IDLE }, by decide⟩

/-- V36: a decode under `CURSOR` that stops with `UNDERFLOW`. -/
theorem test_witness_CapReadingsAgreeBelowTheCap :
    ∃ (cfg : Config) (N : Nat) (cin : Nat → Byte),
      (bigDecode { cfg with CAP_KIND := .CURSOR } N cin).cause ≠ .CAP :=
  ⟨{ Config.defaults with L := 8 }, 2, Memory.read [(0, 0xFF)], by decide⟩

theorem test_witness_UnreadStreamBytesDoNotMatter :
    ∃ (s t : State) (other : Memory), s.pphase = .P_DECODE ∧ step s = .next t ∧
      (∀ a, a < t.c → other.read a = s.cin.read a) ∧ other ≠ s.cin :=
  ⟨ready 8 [0x00, 0x55, 0x66], _, [(1, 0x55)], rfl, rfl, by decide, by decide⟩

theorem test_witness_EngineStartsLoadsAndFinishes :
    (∃ s : State, s.pphase = .P_CHECK ∧ s.cphase = .C_IDLE) ∧
    (∃ s : State, s.pphase = .P_CHECK ∧ s.cphase = .C_LOAD ∧ s.p < s.cfg.L.toNat) ∧
    (∃ s : State, s.pphase = .P_CHECK ∧ s.cphase = .C_LOAD ∧ s.p = s.cfg.L.toNat) :=
  ⟨⟨engine .C_IDLE 1, by decide⟩, ⟨engine .C_LOAD 1, by decide⟩,
    ⟨{ engine .C_LOAD 1 with p := 1 }, by decide⟩⟩

/-- V14: the bit is clear in step 0 and set in step 1; the last step of a byte. -/
theorem test_witness_EngineTakesOneBit :
    (∃ s : State, s.pphase = .P_CHECK ∧ s.cphase = .C_BIT ∧
      (s.acc ^^^ s.rem.zeroExtend 32) &&& 1#32 = 0#32 ∧ s.j < 7) ∧
    (∃ s : State, s.pphase = .P_CHECK ∧ s.cphase = .C_BIT ∧
      (s.acc ^^^ s.rem.zeroExtend 32) &&& 1#32 = 1#32 ∧ s.j = 7) :=
  ⟨⟨{ engine .C_BIT 1 with acc := 0xFFFFFFFF, rem := 0x01, j := 6 }, by decide⟩,
    ⟨{ engine .C_BIT 1 with acc := 0x7FFFFFFF, j := 7 }, by decide⟩⟩

theorem test_witness_EngineComputesTheChecksum :
    ∃ s : State, s.pphase = .P_CHECK ∧ s.cphase = .C_IDLE ∧ s.cfg.L.toNat = 1 :=
  ⟨engine .C_IDLE 1, by decide⟩

/-- A file with this many bytes from `SRC_OFFSET` on, at the file input. -/
theorem file_of_length (count : Nat) :
    ∃ (s : State) (file : List Byte), s.pphase = .P_LOAD ∧ s.hostFile = .contents file ∧
      file.length - s.cfg.SRC_OFFSET = count :=
  ⟨{ sequencer .P_LOAD 8 with hostFile := .contents (List.replicate (count + 76352) 0) }, _, rfl, rfl,
    by simp [sequencer, Config.defaults]⟩

theorem test_witness_LoadTakesTheFileFromItsOffset :
    (∃ s : State, s.pphase = .P_LOAD ∧ s.hostFile = .unreadable) ∧
    (∃ (s : State) (file : List Byte), s.pphase = .P_LOAD ∧ s.hostFile = .contents file ∧
      2 ^ 32 ≤ file.length - s.cfg.SRC_OFFSET) ∧
    (∃ (s : State) (file : List Byte), s.pphase = .P_LOAD ∧ s.hostFile = .contents file ∧
      file.length - s.cfg.SRC_OFFSET < 2 ^ 32) :=
  ⟨⟨{ sequencer .P_LOAD 8 with hostFile := .unreadable }, by decide⟩,
    let ⟨s, file, hp, hf, hn⟩ := file_of_length (2 ^ 32)
    ⟨s, file, hp, hf, hn.ge⟩,
    let ⟨s, file, hp, hf, hn⟩ := file_of_length (2 ^ 32 - 1)
    ⟨s, file, hp, hf, hn.trans_lt (by decide)⟩⟩

theorem test_witness_DecodeEndsByItsCause :
    (∃ s : State, s.pphase = .P_DECODE ∧ s.dphase = .HALT ∧ s.cause = .CAP) ∧
    (∃ s : State, s.pphase = .P_DECODE ∧ s.dphase = .HALT ∧ s.cause = .OVERRUN) :=
  ⟨⟨{ sequencer .P_DECODE 8 with dphase := .HALT, cause := .CAP }, by decide⟩,
    ⟨{ sequencer .P_DECODE 8 with dphase := .HALT, cause := .OVERRUN }, by decide⟩⟩

theorem test_witness_ChecksumDecidesTheRun :
    (∃ s : State, s.pphase = .P_CHECK ∧ s.cphase = .C_DONE ∧ s.crc = s.cfg.CRC_EXPECTED) ∧
    (∃ s : State, s.pphase = .P_CHECK ∧ s.cphase = .C_DONE ∧ s.crc ≠ s.cfg.CRC_EXPECTED) :=
  ⟨⟨{ engine .C_DONE 0 with crc := 0x2A137974 }, by decide⟩, ⟨engine .C_DONE 0, by decide⟩⟩

/-- The patch declined, refused at `L = 15`, and made at `L = 16`. -/
theorem test_witness_PatchOverwritesTheHeaderOnYes :
    (∃ s : State, s.pphase = .P_PATCH ∧ s.out.wf = true ∧ s.hostPatch = some false) ∧
    (∃ s : State, s.pphase = .P_PATCH ∧ s.out.wf = true ∧ s.hostPatch = some true ∧ s.cfg.L.toNat < 16) ∧
    (∃ s : State, s.pphase = .P_PATCH ∧ s.out.wf = true ∧ s.hostPatch = some true ∧
      16 ≤ s.cfg.L.toNat) :=
  ⟨⟨{ sequencer .P_PATCH 16 with hostPatch := some false }, by decide⟩,
    ⟨{ sequencer .P_PATCH 15 with hostPatch := some true }, by decide⟩,
    ⟨{ sequencer .P_PATCH 16 with hostPatch := some true }, by decide⟩⟩

/-- For `PatchWritesTheHeaderAlone` and `PatchIsIdempotent`. -/
theorem test_witness_patch : ∃ s : State, s.out.wf = true ∧ s.out.read 16 = 0x5A :=
  ⟨{ sequencer .P_PATCH 20 with out := [(3, 0x5A), (16, 0x5A)] }, by decide⟩

theorem test_witness_WriteEndsTheRun :
    (∃ s : State, s.pphase = .P_WRITE ∧ s.hostWrite = some true) ∧
    (∃ s : State, s.pphase = .P_WRITE ∧ s.hostWrite = some false) :=
  ⟨⟨{ sequencer .P_WRITE 8 with hostWrite := some true }, by decide⟩,
    ⟨{ sequencer .P_WRITE 8 with hostWrite := some false }, by decide⟩⟩

theorem test_witness_ExitCodeTellsOnlySuccess :
    (∃ s : State, s.pphase = .P_DONE ∧ s.result = .OK ∧ s.cfg.Legal) ∧
    (∃ s : State, s.pphase = .P_FAILED ∧ s.result ≠ .OK ∧ s.cfg.Legal) :=
  ⟨⟨sequencer .P_DONE 8, by decide⟩,
    ⟨{ sequencer .P_FAILED 8 with result := .READ_FAIL }, by decide⟩⟩

theorem test_witness_WaitsChangeNothing :
    (∃ s : State, s.pphase = .P_LOAD ∧ s.hostFile = .pending) ∧
    (∃ s : State, s.pphase = .P_PATCH ∧ s.hostPatch = none) ∧
    (∃ s : State, s.pphase = .P_WRITE ∧ s.hostWrite = none) ∧
    (∃ s : State, s.pphase = .P_DONE ∨ s.pphase = .P_FAILED) :=
  ⟨⟨sequencer .P_LOAD 8, by decide⟩, ⟨sequencer .P_PATCH 8, by decide⟩,
    ⟨sequencer .P_WRITE 8, by decide⟩, ⟨sequencer .P_DONE 8, by decide⟩⟩

/-- For `PipelineStepsKeepTheirOrder` and `EachPhaseWritesOnlyWhatItOwns`: a step in each phase. -/
theorem test_witness_phases :
    (∃ s t : State, s.out.wf = true ∧ step s = .next t ∧ s.pphase = .P_IDLE) ∧
    (∃ s t : State, s.out.wf = true ∧ step s = .next t ∧ s.pphase = .P_LOAD) ∧
    (∃ s t : State, s.out.wf = true ∧ step s = .next t ∧ s.pphase = .P_DECODE) ∧
    (∃ s t : State, s.out.wf = true ∧ step s = .next t ∧ s.pphase = .P_CHECK) ∧
    (∃ s t : State, s.out.wf = true ∧ step s = .next t ∧ s.pphase = .P_PATCH) ∧
    (∃ s t : State, s.out.wf = true ∧ step s = .next t ∧ s.pphase = .P_WRITE) ∧
    (∃ s t : State, s.out.wf = true ∧ step s = .next t ∧ s.pphase = .P_DONE) :=
  ⟨⟨sequencer .P_IDLE 8, _, rfl, rfl, rfl⟩, ⟨sequencer .P_LOAD 8, _, rfl, rfl, rfl⟩,
    ⟨ready 8 [0x00, 1], _, rfl, rfl, rfl⟩, ⟨engine .C_LOAD 8, _, rfl, rfl, rfl⟩,
    ⟨{ sequencer .P_PATCH 16 with hostPatch := some true }, _, rfl, rfl, rfl⟩,
    ⟨{ sequencer .P_WRITE 8 with hostWrite := some true }, _, rfl, rfl, rfl⟩,
    ⟨sequencer .P_DONE 8, _, rfl, rfl, rfl⟩⟩

/-- For `PermittedHostMovesAreAnswered` too: each move, where the host has it. -/
theorem test_witness_HostDoesNotTouchAnActiveRun :
    (∃ s t : State, hostMove (.configure Config.defaults) s = some t) ∧
    (∃ s t : State, hostMove (.supplyFile .unreadable) s = some t) ∧
    (∃ s t : State, hostMove (.answerPatch true) s = some t) ∧
    (∃ s t : State, hostMove (.reportWrite true) s = some t) ∧
    (∃ s t : State, s.pphase = .P_CHECK ∧ hostMove .reset s = some t) :=
  ⟨⟨sequencer .P_IDLE 8, _, rfl⟩, ⟨sequencer .P_LOAD 8, _, rfl⟩, ⟨sequencer .P_PATCH 8, _, rfl⟩,
    ⟨sequencer .P_WRITE 8, _, rfl⟩, ⟨sequencer .P_CHECK 8, _, rfl, rfl⟩⟩

/-- A configuration outside the ranges of R7 is no move, and none is made during a run. -/
theorem test_host_move_refused :
    hostMove (.configure { Config.defaults with EXIT_FAIL := 0 }) (sequencer .P_IDLE 8) = none ∧
    hostMove (.configure Config.defaults) (sequencer .P_LOAD 8) = none ∧
    hostMove (.supplyFile .unreadable) (sequencer .P_DECODE 8) = none := by decide

/-! ### Witnesses of the invariant -/

/-- In the middle of an overlapping back-reference run: `01 AA BB FE 04`, one byte copied (V24, V27). -/
def midRun : State :=
  { ready 8 [0x01, 0xAA, 0xBB, 0xFE, 0x04] with
    out := [(0, 0xAA), (1, 0xBB), (2, 0xAA)]
    c := 5, w := 3, i := 2, v := 0xFE, n := 2, len := 4, k := 4, dphase := .REFCOPY }

/-- For the statements that begin from `DecoderInv` or `Inv`: a state in the middle of step 2, and its
step. -/
theorem test_witness_inv_decoding : Inv midRun ∧ ∃ t, step midRun = .next t := by
  refine ⟨⟨?_, ?_⟩, _, rfl⟩
  · constructor <;> simp [midRun, ready, State.reset, Config.defaults, cursorBound] <;> decide
  · constructor
    case decoding => exact fun _ => by decide +kernel
    all_goals simp [midRun, ready, State.reset, Config.defaults, fileFits]

/-- After the checksum of the one byte 61 (V5), the host's answer awaited; the decoder stopped full. -/
def checkedOne : State :=
  { ready 1 [0x00, 0x61] with
    cfg := { Config.defaults with L := 1, CRC_EXPECTED := 0xE8B7BE43 }
    out := [(0, 0x61)]
    c := 2, w := 1, i := 1, dphase := .HALT, cause := .FULL
    p := 1, j := 8, cphase := .C_DONE, crc := 0xE8B7BE43, crcOk := true, pphase := .P_PATCH }

/-- For the same, and for `HostMovesKeepTheInvariant`: a state in which step 4 waits for the host. -/
theorem test_witness_inv_checked : Inv checkedOne ∧
    (∃ t, hostMove (.answerPatch false) checkedOne = some t) ∧ waitsForHost checkedOne = true := by
  have sum : checkedOne.crc = checksum checkedOne.cfg (image checkedOne) := by decide +kernel
  refine ⟨⟨?_, ?_⟩, ⟨_, rfl⟩, by decide⟩
  · constructor <;>
      simp [checkedOne, ready, State.reset, Config.defaults, cursorBound] <;> decide
  · constructor
    case sums => exact fun _ => sum
    case decoding => exact fun _ => by decide +kernel
    all_goals simp [checkedOne, ready, State.reset, Config.defaults, fileFits]

/-- The end of P6 of 95_test_vectors.md: `LIT 5A`, `REF 1, 19`, patched. -/
def patchedEnd : State :=
  { ready 20 [0x00, 0x5A, 0xFF, 0x12] with
    cfg := { Config.defaults with L := 20, CRC_EXPECTED := 0xD4379BF0 }
    out := Memory.ofBytes 0 (Config.defaults.FIXED_HEADER.toList ++ List.replicate 4 0x5A)
    c := 4, w := 20, i := 2, v := 0xFF, n := 1, len := 0x12, dphase := .HALT, cause := .FULL
    p := 20, j := 8, cphase := .C_DONE, crc := 0xD4379BF0, crcOk := true, pphase := .P_DONE
    patchReq := true }

/-- For `SuccessfulRunHandsOverACheckedImage`: a run that ended with the patch, and one without. -/
theorem test_witness_SuccessfulRunHandsOverACheckedImage :
    (Inv patchedEnd ∧ patchedEnd.pphase = .P_DONE ∧ patchedEnd.patchReq = true) ∧
    Inv { checkedOne with pphase := .P_DONE } := by
  have patched : handedImage patchedEnd :=
    ⟨by decide +kernel, by rw [if_pos (by rfl)]; exact ⟨by decide, by decide +kernel⟩⟩
  have plain : handedImage { checkedOne with pphase := .P_DONE } :=
    ⟨by decide +kernel, by rw [if_neg (by decide)]; decide +kernel⟩
  refine ⟨⟨⟨?_, ?_⟩, rfl, rfl⟩, ⟨?_, ?_⟩⟩
  · constructor <;>
      simp [patchedEnd, ready, State.reset, Config.defaults, cursorBound] <;> decide
  · constructor
    case handed => exact fun _ => patched
    all_goals simp [patchedEnd, ready, State.reset, Config.defaults, fileFits]
  · constructor <;>
      simp [checkedOne, ready, State.reset, Config.defaults, cursorBound] <;> decide
  · constructor
    case handed => exact fun _ => plain
    all_goals simp [checkedOne, ready, State.reset, Config.defaults, fileFits]

/-- The host names a file of two bytes, `00 61` (V5), for an output of one byte. -/
def namedFile : State :=
  { State.reset with
    cfg := { Config.defaults with L := 1, CRC_EXPECTED := 0xE8B7BE43, SRC_OFFSET := 0 }
    hostFile := .contents [0x00, 0x61] }

/-- For `ReachableStatesMeetTheInvariant` and `ReachableConfigurationsAreLegal`: a run that
succeeds can be reached: load, decode, checksum, no patch, written (as P3 of
95_test_vectors.md, with one byte). -/
theorem test_witness_successful_run : ∃ s, Reachable s ∧ s.pphase = .P_DONE := by
  have loaded : Reachable namedFile :=
    .host _ _ (.supplyFile (.contents [0x00, 0x61]))
      (.host _ _ (.configure namedFile.cfg) .reset rfl) rfl
  have waiting : ∃ s, Reachable s ∧ s.pphase = .P_PATCH := by
    have run : ∃ s, runSteps step 18 namedFile = .next s ∧ s.pphase = .P_PATCH :=
      ⟨_, rfl, by decide +kernel⟩
    obtain ⟨s, h, hp⟩ := run
    exact ⟨s, reachable_runSteps loaded h, hp⟩
  obtain ⟨s, hs, hp⟩ := waiting
  have answered : hostMove (.answerPatch false) s = some { s with hostPatch := some false } := by
    simp [hostMove, hp]
  have patched : step { s with hostPatch := some false }
      = .next { samplePatch false { s with hostPatch := some false } with pphase := .P_WRITE } := by
    rw [step, coreStep_patch (s := { s with hostPatch := some false }) _ hp]; rfl
  exact ⟨_, .step _ _ (.host _ _ (.reportWrite true)
    (.step _ _ (.host _ _ _ hs answered) patched) rfl) rfl, rfl⟩

end Sys2Proof.Tests
end

section
/-! PROOFS. The header patch on `OUT` (20_memory.md R68). -/

namespace Sys2Proof.Machine

/-- What a read of `OUT` sees after the patch: the header on the first sixteen addresses, the old bytes
elsewhere. -/
theorem read_patchHeader {s : State} (h : s.out.wf = true) (a : Nat) :
    (patchHeader s).out.read a
      = if a < 16 then s.cfg.FIXED_HEADER.toList.getD a 0 else s.out.read a := by
  rw [patchHeader_out, Memory.read_writeBytes h]
  simp

theorem read_patchHeader_header {s : State} (h : s.out.wf = true) (t : Fin 16) :
    (patchHeader s).out.read t = s.cfg.FIXED_HEADER[t] := by
  rw [read_patchHeader h, if_pos t.isLt]
  simp

theorem read_patchHeader_beyond {s : State} (h : s.out.wf = true) {a : Nat} (ha : 16 ≤ a) :
    (patchHeader s).out.read a = s.out.read a := by
  rw [read_patchHeader h, if_neg (Nat.not_lt.mpr ha)]

/-- Settles O38: the patch is one update of the field `out`, and the two read laws give its bytes. -/
theorem patchWritesTheHeaderAlone : Obligations.PatchWritesTheHeaderAlone := by
  intro s h
  have frame : patchHeader s = { s with out := (patchHeader s).out } := rfl
  exact ⟨frame, read_patchHeader_header h, fun _ => read_patchHeader_beyond h⟩

end Sys2Proof.Machine
end

section
/-! PROOFS. Every control byte begins a run (30_encoding.md R81). -/

namespace Sys2Proof

/-- Without its length byte a `REF` is rejected. -/
theorem decode_ref_noLengthByte {b : Byte} (h : 128 ≤ b.toNat) :
    decode [b] = .error .noLengthByte := by
  simp [decode, (isRef_iff b).2 h]

/-- With fewer data bytes than its control byte announces a `LIT` is rejected. -/
theorem decode_lit_literalsMissing {b : Byte} (h : b.toNat < 128) {tail : List Byte}
    (short : tail.length < litCount b) : decode (b :: tail) = .error .literalsMissing := by
  simp [decode, (isRef_false b).2 h, short]

/-- Settles O2: bit 7 of the control byte selects the run, and then only the length of the tail decides
whether the run is whole. -/
theorem everyControlByteBeginsARun : Obligations.EveryControlByteBeginsARun := by
  refine fun b tail => ⟨fun hlit => ?literal, fun href => ?reference⟩
  case literal =>
    have hlt : b.toNat < 128 := by omega
    exact ⟨sext8_of_lt hlt, decode_lit hlt, decode_lit_literalsMissing hlt⟩
  case reference =>
    refine ⟨sext8_of_ge href, ?whole, ?cut⟩
    case whole => rintro l rest rfl; exact decode_ref href l rest
    case cut => rintro rfl; exact decode_ref_noLengthByte href

end Sys2Proof
end

section
/-! PROOFS. The start and the head of the decoder's outer loop (40_decoder_loop.md R101 to R103, R121,
R131). -/

namespace Sys2Proof.Machine

/-! ### Start -/

/-- START is the decoder's step at IDLE for both sizes of step. -/
theorem decodeStep_idle (top : State → Outcome) {s : State} (hd : s.dphase = .IDLE) :
    decodeStep top s = .next (decStart s) := by rw [decodeStep, hd]

/-- Settles O7: at IDLE the decoder's step is START, an update of `dphase` alone. -/
theorem startTurnsToTheLoop : Obligations.StartTurnsToTheLoop := by
  intro s hp hd
  calc step s
    _ = decodeStep runTop s := coreStep_decode _ hp
    _ = .next (decStart s) := decodeStep_idle _ hd

/-! ### The TOP step of R12, by the answers of its loop test and its fetch -/

theorem microTop_stop {s : State} {why : Cause} (stops : loopTest s = some why) :
    microTop s = .next (raiseStop why s) := by rw [microTop, stops]

theorem microTop_overrun {s : State} (goesOn : loopTest s = none) (ends : s.N.toNat ≤ s.c) :
    microTop s = .next (raiseStop .OVERRUN s) := by
  rw [microTop, goesOn, readCin_none.2 ends]

theorem microTop_fetch {s : State} {b : Byte} (goesOn : loopTest s = none)
    (fetch : readCin s s.c = some b) :
    microTop s
      = .next (if sext8 b < 0 then refEntry (fetched b s) else litEntry (fetched b s)) := by
  rw [microTop, goesOn, fetch]

/-! ### The entry of a run, in exact integers -/

theorem distance_eq_of_neg {s : State} {n : Nat} (h : (n : Int) = -(sext8 s.v)) :
    distance s = n := by
  rw [distance, ← h, Int.toNat_natCast]

theorem litEntry_eq_of_succ {s : State} {count : Nat} (nonneg : 0 ≤ sext8 s.v)
    (h : (count : Int) = sext8 s.v + 1) :
    litEntry s = { s with k := count, dphase := .LITCOPY } := by
  have : (sext8 s.v).toNat + 1 = count := by omega
  rw [litEntry, this]

/-- Settles O9: the answer of the loop test, then that of the fetch, then the sign of the control byte
and the comparison of its distance with `w` select one of the six next states. -/
theorem headOfLoopTestsThenFetches : Obligations.HeadOfLoopTestsThenFetches := by
  intro s hp hd
  rw [microStep_top hp hd]
  refine ⟨fun hfull => ?full, fun hw hcap => ?cap, fun hw hcap hend => ?overrun,
    fun hw hcap hc b hb => ?fetch⟩
  case full => exact microTop_stop (loopTest_some.2 (.inl ⟨hfull, rfl⟩))
  case cap => exact microTop_stop (loopTest_some.2 (.inr ⟨hw, hcap, rfl⟩))
  case overrun => exact microTop_overrun (loopTest_none.2 ⟨hw, hcap⟩) hend
  case fetch =>
    rw [microTop_fetch (loopTest_none.2 ⟨hw, hcap⟩) (readCin_some.2 ⟨hc, hb.symm⟩)]
    refine ⟨fun nonneg count hcount => ?literal, fun neg n hn => ?reference⟩
    case literal =>
      rw [if_neg (Int.not_lt.2 nonneg), litEntry_eq_of_succ (s := fetched b s) nonneg hcount]
      rfl
    case reference =>
      have hdist : distance (fetched b s) = n := distance_eq_of_neg hn
      rw [if_pos neg]
      refine ⟨fun reaches => ?enter, fun short => ?underflow⟩
      case enter => rw [refEntry_enter (s := fetched b s) (hdist.trans_le reaches), hdist]; rfl
      case underflow =>
        rw [refEntry_underflow (s := fetched b s) (short.trans_eq hdist.symm), hdist]; rfl

end Sys2Proof.Machine
end

section
/-! PROOFS. The back-reference run (41_backref_run.md R120 to R123). -/

namespace Sys2Proof.Machine

/-! ### The whole run -/

/-- The operand ranges of a `REF` (R89). -/
theorem wellFormed_ref {n count : Nat} :
    (Instr.ref n count).wellFormed = true ↔ (1 ≤ n ∧ n ≤ 128) ∧ 1 ≤ count ∧ count ≤ 256 := by
  simp [Instr.wellFormed]

theorem exec_ref (n count : Nat) (s : State) : exec (.ref n count) s = execRef n count s := rfl

/-- Settles O20: the fetch, the `UNDERFLOW` test and the read of the length byte divide the run into its
four cases; where it copies, `OUT` becomes that of `copyBack`, whose read laws give every byte. -/
theorem refRunCopiesUntilItEndsOrStops : Obligations.RefRunCopiesUntilItEndsOrStops := by
  intro n count s hwf hout
  obtain ⟨⟨n_pos, n_le⟩, count_pos, count_le⟩ := wellFormed_ref.1 hwf
  rw [exec_ref]
  refine ⟨fun ends => ?noControl, fun hc short => ?underflow, fun hc reaches => ?noLength,
    fun hc reaches done hdone => ?copies⟩
  case noControl => exact execRef_overrun n count ends
  case underflow => exact execRef_underflow count n_pos n_le hc short
  case noLength => exact execRef_noLength count n_pos n_le hc reaches
  case copies =>
    refine ⟨copyBack n done s.w s.out,
      execRef_eq n_pos n_le count_pos count_le hc reaches hdone, ?copied, ?framed⟩
    case copied => exact fun _ => copyBack_read_inside done s.w hout n_pos reaches
    case framed => exact fun _ => copyBack_read_outside n done s.w hout

/-! ### The copy step -/

theorem step_refCopy {s : State} (hp : s.pphase = .P_DECODE) (hd : s.dphase = .REFCOPY) :
    step s = refCopy s := by
  rw [step, coreStep_decode _ hp, decodeStep, hd]

/-- Settles O11: `refCopy_next` names the next state on each side of the `FULL` test, and the write law of
`OUT` gives its bytes. -/
theorem refCopyMovesOneByte : Obligations.RefCopyMovesOneByte := by
  intro s hp hd hout k_pos reaches
  rw [step_refCopy hp hd]
  refine ⟨fun full => ?full, fun room => ⟨s.out.write s.w (s.out.read (s.w - s.n)), ?copy, ?copied,
    fun a other => ?framed⟩⟩
  case full => exact refCopy_next.2 (.inl ⟨full, rfl⟩)
  case copy =>
    rw [← hd]
    exact refCopy_next.2 (.inr ⟨room, reaches, Nat.ne_of_gt k_pos, rfl⟩)
  case copied => rw [Memory.read_write hout, if_pos rfl]
  case framed => rw [Memory.read_write hout, if_neg other]

/-! ### The length byte -/

theorem step_refLen {s : State} (hp : s.pphase = .P_DECODE) (hd : s.dphase = .REFLEN) :
    step s = .next (refLen (readCin s s.c) s) := by
  rw [step, coreStep_decode _ hp, decodeStep, hd, refLenStep]

/-- Settles O10: what the read of `CIN` at `c` answers decides between the stop and the copy steps. -/
theorem lengthByteIsRead : Obligations.LengthByteIsRead := by
  intro s hp hd
  rw [step_refLen hp hd]
  refine ⟨fun hc => ?read, fun ends => ?overrun⟩
  case read => rw [readCin_some.2 ⟨hc, rfl⟩, refLen_some]
  case overrun => rw [readCin_none.2 ends, refLen_none, raiseStop]

end Sys2Proof.Machine
end

section
/-! PROOFS. The literal run (42_literal_run.md R130 to R132). -/

namespace Sys2Proof.Machine

/-! ### The whole run -/

theorem exec_lit (bytes : List Byte) (s : State) : exec (.lit bytes) s = execLit bytes s := rfl

/-- What a read sees after the first `done` bytes of a run are written: those bytes are taken from the
whole run, whose end does not matter to them. -/
theorem read_writeBytes_take {m : Memory} (h : m.wf = true) (a : Nat) {bs : List Byte} {done : Nat}
    (fits : done ≤ bs.length) (x : Nat) :
    (m.writeBytes a (bs.take done)).read x
      = if a ≤ x ∧ x < a + done then bs.getD (x - a) 0 else m.read x := by
  rw [Memory.read_writeBytes h, List.length_take, Nat.min_eq_left fits]
  refine if_ctx_congr Iff.rfl (fun written => ?_) fun _ => rfl
  have before : x - a < done := by omega
  rw [List.getD_eq_getElem?_getD, List.getElem?_take_of_lt before, ← List.getD_eq_getElem?_getD]

/-- Settles O18: without a control byte the fetch stops; with one, `execLit_eq` gives the state after
`done` copy steps, and the read law of the bytes they wrote gives `OUT`. -/
theorem litRunCopiesUntilItEndsOrStops : Obligations.LitRunCopiesUntilItEndsOrStops := by
  intro bytes s hwf hout
  rw [exec_lit]
  refine ⟨fun ends => ?noControl, fun hc done hdone =>
    ⟨s.out.writeBytes s.w (bytes.take done), ?copies, fun a => ?written⟩⟩
  case noControl => exact execLit_overrun bytes ends
  case copies =>
    rw [← Nat.add_assoc]
    exact execLit_eq bytes s hwf hc hdone
  case written =>
    have fits : done ≤ bytes.length := hdone.trans_le (Nat.min_le_left _ _)
    exact read_writeBytes_take hout s.w fits a

/-! ### The copy step -/

theorem step_litCopy {s : State} (hp : s.pphase = .P_DECODE) (hd : s.dphase = .LITCOPY) :
    step s = litCopy (readCin s s.c) s := by
  rw [step, coreStep_decode _ hp, decodeStep, hd, litCopyStep]

/-- Settles O12: `litCopy_next` names the next state on each side of the `FULL` test and of the read of
`CIN`, and the write law of `OUT` gives its bytes. -/
theorem litCopyMovesOneByte : Obligations.LitCopyMovesOneByte := by
  intro s hp hd hout k_pos
  rw [step_litCopy hp hd]
  refine ⟨fun full => ?full, fun room ends => ?overrun, fun room hc =>
    ⟨s.out.write s.w (s.cin.read s.c), ?copy, ?copied, fun a other => ?framed⟩⟩
  case full => exact litCopy_next.2 (.inl ⟨full, rfl⟩)
  case overrun => exact litCopy_next.2 (.inr (.inl ⟨room, readCin_none.2 ends, rfl⟩))
  case copy =>
    have fetch : readCin s s.c = some (s.cin.read s.c) := readCin_some.2 ⟨hc, rfl⟩
    rw [← hd]
    exact litCopy_next.2 (.inr (.inr ⟨_, room, fetch, Nat.ne_of_gt k_pos, rfl⟩))
  case copied => rw [Memory.read_write hout, if_pos rfl]
  case framed => rw [Memory.read_write hout, if_neg other]

end Sys2Proof.Machine
end

section
/-! PROOFS. The CRC engine in step 3 of the pipeline (43_crc32.md R141 to R145). -/

namespace Sys2Proof.Machine

/-! ### The step of the engine by its phase -/

theorem step_check {s : State} (hp : s.pphase = .P_CHECK) : step s = checkStep s :=
  coreStep_check _ hp

theorem step_crcStart {s : State} (hp : s.pphase = .P_CHECK) (hc : s.cphase = .C_IDLE) :
    step s = .next (crcStart s) := by rw [step_check hp, checkStep, hc]

theorem step_crcLoad {s : State} (hp : s.pphase = .P_CHECK) (hc : s.cphase = .C_LOAD) :
    step s = crcLoad s := by rw [step_check hp, checkStep, hc]

theorem step_crcBit {s : State} (hp : s.pphase = .P_CHECK) (hc : s.cphase = .C_BIT) :
    step s = crcBit s := by rw [step_check hp, checkStep, hc]

/-! ### One bit -/

/-- R143's arithmetic form of the tested bit: the mask with 1 leaves the exclusive or of the two low
bits, as a word. -/
theorem xor_and_one (acc : Word) (data : Byte) :
    (acc ^^^ data.zeroExtend 32) &&& 1#32
      = (BitVec.ofBool (acc.getLsbD 0 ^^ data.getLsbD 0)).setWidth 32 := by
  rw [BitVec.and_one_eq_setWidth_ofBool_getLsbD]
  simp

theorem bitStep_snd (poly acc : Word) (data : Byte) : (bitStep poly (acc, data)).2 = data >>> 1 := rfl

/-- R143 fixes the next accumulator: its two cases are those of the bit that `bitStep` tests. -/
theorem bitStep_fst_eq {poly acc acc' : Word} {data : Byte}
    (set : (acc ^^^ data.zeroExtend 32) &&& 1#32 = 1#32 → acc' = (acc >>> 1) ^^^ poly)
    (clear : (acc ^^^ data.zeroExtend 32) &&& 1#32 = 0#32 → acc' = acc >>> 1) :
    (bitStep poly (acc, data)).1 = acc' := by
  rw [xor_and_one] at set clear
  rw [bitStep]
  cases hbit : acc.getLsbD 0 ^^ data.getLsbD 0 with
  | true => exact (set (by rw [hbit]; rfl)).symm
  | false => exact (clear (by rw [hbit]; rfl)).symm

/-- Settles O31: the next accumulator is that of `bitStep`, and `crcBit_next` names the next state on each
side of the test of `j`. -/
theorem engineTakesOneBit : Obligations.EngineTakesOneBit := by
  intro s acc' hp hc ⟨set, clear⟩
  have hacc : (bitStep s.cfg.POLY (s.acc, s.rem)).1 = acc' := bitStep_fst_eq set clear
  have hdone : bitDone s = { s with acc := acc', rem := s.rem >>> 1, j := s.j + 1 } := by
    rw [bitDone, hacc, bitStep_snd]
  rw [step_crcBit hp hc]
  refine ⟨fun more => ?inner, fun eighth => ?last⟩
  case inner => exact crcBit_next.2 (.inr ⟨more, hdone.symm⟩)
  case last => exact crcBit_next.2 (.inl ⟨eighth, by rw [hdone, crcNext, eighth]⟩)

/-! ### Start, load and end -/

/-- R145 complements the accumulator, which is the exclusive or with all ones. -/
theorem crcFinal_eq_xor (s : State) :
    crcFinal s = { s with crc := s.acc ^^^ 0xFFFFFFFF#32, cphase := .C_DONE } := by
  have ones : s.acc ^^^ 0xFFFFFFFF#32 = ~~~ s.acc := BitVec.xor_allOnes
  rw [crcFinal, ones]

/-- Settles O30: at C_IDLE the step is CRC_START; at C_LOAD `crcLoad_next` names the next state on each side
of the comparison of `p` with `L`. -/
theorem engineStartsLoadsAndFinishes : Obligations.EngineStartsLoadsAndFinishes := by
  intro s hp
  refine ⟨fun hc => ?start, fun hc more => ?load, fun hc ends => ?final⟩
  case start => exact step_crcStart hp hc
  case load => rw [step_crcLoad hp hc]; exact crcLoad_next.2 (.inr ⟨more, rfl⟩)
  case final =>
    rw [step_crcLoad hp hc]
    exact crcLoad_next.2 (.inl ⟨ends, (crcFinal_eq_xor s).symm⟩)

end Sys2Proof.Machine
end

section
/-! PROOFS. The header patch made twice (44_pipeline.md R171). -/

namespace Sys2Proof.Machine

/-- The bytes that stand where the list is written do not matter to what a read sees, and canonical memories
with equal reads are equal. -/
theorem Memory.writeBytes_idem {m : Memory} (h : m.wf = true) (a : Nat) (bs : List Byte) :
    (m.writeBytes a bs).writeBytes a bs = m.writeBytes a bs := by
  have once : (m.writeBytes a bs).wf = true := Memory.wf_writeBytes h a bs
  refine Memory.ext_read (Memory.wf_writeBytes once a bs) once fun x => ?_
  rw [Memory.read_writeBytes once]
  split_ifs with inside
  · rw [Memory.read_writeBytes h, if_pos inside]
  · rfl

/-- Settles O39: the patch updates `out` alone, and the second one writes the same header over itself. -/
theorem patchIsIdempotent : Obligations.PatchIsIdempotent := by
  intro s h
  calc patchHeader (patchHeader s)
    _ = { s with out := (s.out.writeBytes 0 s.cfg.FIXED_HEADER.toList).writeBytes 0
                          s.cfg.FIXED_HEADER.toList } := rfl
    _ = patchHeader s := by rw [Memory.writeBytes_idem h, patchHeader]

end Sys2Proof.Machine
end

section
/-! PROOFS. The ends of the steps of the pipeline and of its run (44_pipeline.md R162 to R164, R169, R173). -/

namespace Sys2Proof.Machine

/-- A run that failed hands over nothing (R164, R173). -/
theorem handOver_of_failed {s : State} (h : s.pphase = .P_FAILED) : handOver s = none := by
  simp [handOver, h]

/-! ### Step 2 -/

theorem step_halt {s : State} (hp : s.pphase = .P_DECODE) (hd : s.dphase = .HALT) :
    step s = pipeDecoded s := by
  rw [step, coreStep_decode _ hp, decodeStep, hd]

/-- Settles O35: at HALT the step is the end of PIPE_DECODE, and `pipeDecoded_next` names its next state for
each cause. -/
theorem decodeEndsByItsCause : Obligations.DecodeEndsByItsCause := by
  intro s hp hd
  rw [step_halt hp hd]
  refine ⟨fun hcause => ?goesOn, fun hover => ⟨failRun .MALFORMED_INPUT s, ?fails, rfl, ?nothing⟩⟩
  case goesOn =>
    obtain ⟨notOverrun, notNone⟩ : s.cause ≠ .OVERRUN ∧ s.cause ≠ .NONE := by
      rcases hcause with h | h | h <;> simp [h]
    exact pipeDecoded_next.2 (.inr ⟨notOverrun, notNone, rfl⟩)
  case fails => exact pipeDecoded_next.2 (.inl ⟨hover, rfl⟩)
  case nothing => exact handOver_of_failed (failRun_pphase _ s)

/-! ### Step 3 -/

theorem step_crcDone {s : State} (hp : s.pphase = .P_CHECK) (hc : s.cphase = .C_DONE) :
    step s = .next (pipeCheck s) := by rw [step_check hp, checkStep, hc]

/-- Settles O36: at C_DONE the step is the comparison of PIPE_CHECK, and `pipeCheck_cases` names its next
state on each side. -/
theorem checksumDecidesTheRun : Obligations.ChecksumDecidesTheRun := by
  intro s hp hc
  rw [step_crcDone hp hc]
  obtain ⟨hcrc, goesOn⟩ | ⟨hcrc, fails⟩ := pipeCheck_cases s
  · exact ⟨fun _ => congrArg _ goesOn, fun mismatch => absurd hcrc mismatch⟩
  · exact ⟨fun equal => absurd equal hcrc, fun _ =>
      ⟨_, congrArg _ fails, rfl, handOver_of_failed (failRun_pphase _ _)⟩⟩

/-! ### The exit code -/

theorem runEnded_true {s : State} : runEnded s = true ↔ s.pphase = .P_DONE ∨ s.pphase = .P_FAILED := by
  simp [runEnded]

theorem exitCode_of_ended {s : State} (ended : s.pphase = .P_DONE ∨ s.pphase = .P_FAILED) :
    exitCode s = some (if s.result = .OK then 0 else s.cfg.EXIT_FAIL) := by
  rw [exitCode, if_pos (runEnded_true.2 ended)]

/-- Settles O41: the code of an ended run is chosen by its result, and in a legal configuration `EXIT_FAIL`
is not 0, so that 0 tells success. -/
theorem exitCodeTellsOnlySuccess : Obligations.ExitCodeTellsOnlySuccess := by
  intro s ended
  rw [exitCode_of_ended ended]
  by_cases ok : s.result = .OK
  · simp [ok]
  · refine ⟨fun h => absurd h ok, fun _ => by rw [if_neg ok], fun ⟨_, exitFail_ne⟩ => ?_⟩
    simp [ok, exitFail_ne]

end Sys2Proof.Machine
end

section
/-! PROOFS. Decoder and encoder of the stream format are each other's inverse (30_encoding.md sections 1 to 4). -/

namespace Sys2Proof

/-! ### The fields of a run, written and read back -/

theorem wellFormed_lit {bytes : List Byte} :
    (Instr.lit bytes).wellFormed = true ↔ 1 ≤ bytes.length ∧ bytes.length ≤ 128 := by
  simp [Instr.wellFormed]

theorem litCount_litControl {count : Nat} (pos : 1 ≤ count) (le : count ≤ 256) :
    litCount (litControl count) = count := by
  rw [litCount, litControl_toNat le, Nat.sub_add_cancel pos]

theorem refDistance_refControl {n : Nat} (pos : 1 ≤ n) (le : n ≤ 256) :
    refDistance (refControl n) = n := by
  rw [refDistance, refControl_toNat pos, Nat.sub_sub_self le]

theorem refCount_refLengthByte {count : Nat} (pos : 1 ≤ count) (le : count ≤ 256) :
    refCount (refLengthByte count) = count := by
  rw [refCount, refLengthByte_toNat le, Nat.sub_add_cancel pos]

theorem litControl_litCount (b : Byte) : litControl (litCount b) = b :=
  BitVec.eq_of_toNat_eq (litControl_toNat b.isLt)

theorem refControl_refDistance (b : Byte) : refControl (refDistance b) = b := by
  have pos : 1 ≤ refDistance b := Nat.sub_pos_of_lt b.isLt
  exact BitVec.eq_of_toNat_eq ((refControl_toNat pos).trans (Nat.sub_sub_self (le_of_lt b.isLt)))

theorem refLengthByte_refCount (l : Byte) : refLengthByte (refCount l) = l :=
  BitVec.eq_of_toNat_eq (refLengthByte_toNat l.isLt)

/-! ### Decoding what was encoded -/

/-- Settles O3: the control byte that the encoder writes has the opcode bit of its run, and each field is
read back as it was written. -/
theorem encodedRunDecodesToItself : Obligations.EncodedRunDecodesToItself := by
  intro i rest hwf
  cases i with
  | lit bytes =>
    obtain ⟨pos, le⟩ := wellFormed_lit.1 hwf
    have control : (litControl bytes.length).toNat < 128 := by
      rw [litControl_toNat (by omega)]; omega
    have count : litCount (litControl bytes.length) = bytes.length :=
      litCount_litControl pos (by omega)
    rw [encode, List.cons_append, decode_lit control (by simp [count]), count, List.take_left,
      List.drop_left]
  | ref n count =>
    obtain ⟨⟨n_pos, n_le⟩, count_pos, count_le⟩ := Machine.wellFormed_ref.1 hwf
    have control : 128 ≤ (refControl n).toNat := by rw [refControl_toNat n_pos]; omega
    rw [encode, List.cons_append, List.cons_append, List.nil_append, decode_ref control,
      refDistance_refControl n_pos (by omega), refCount_refLengthByte count_pos count_le]

/-! ### Encoding what was decoded -/

/-- What a list that decodes looks like: a `REF` with its length byte, or a `LIT` with all its bytes. -/
theorem decode_ok {bs : List Byte} {i : Instr} {rest : List Byte} (h : decode bs = .ok (i, rest)) :
    (∃ b l, 128 ≤ b.toNat ∧ bs = b :: l :: rest ∧ i = .ref (refDistance b) (refCount l)) ∨
    (∃ b tail, b.toNat < 128 ∧ bs = b :: tail ∧ litCount b ≤ tail.length ∧
      i = .lit (tail.take (litCount b)) ∧ rest = tail.drop (litCount b)) := by
  cases bs with
  | nil => cases h
  | cons b tail =>
    by_cases hb : 128 ≤ b.toNat
    · cases tail with
      | nil => rw [decode_ref_noLengthByte hb] at h; cases h
      | cons l tail => rw [decode_ref hb] at h; cases h; exact .inl ⟨b, l, hb, rfl, rfl⟩
    · rw [Nat.not_le] at hb
      by_cases enough : litCount b ≤ tail.length
      · rw [decode_lit hb enough] at h; cases h
        exact .inr ⟨b, tail, hb, rfl, enough, rfl, rfl⟩
      · rw [decode_lit_literalsMissing hb (Nat.not_le.1 enough)] at h; cases h

/-- The run that any two bytes with the opcode bit begin is in the ranges of R89. -/
theorem wellFormed_ref_of_bytes {b : Byte} (hb : 128 ≤ b.toNat) (l : Byte) :
    (Instr.ref (refDistance b) (refCount l)).wellFormed = true := by
  have := b.isLt
  have := l.isLt
  rw [Machine.wellFormed_ref, refDistance, refCount]
  omega

/-- As many literal bytes as a control byte without the opcode bit announces are in the range of R84. -/
theorem wellFormed_lit_of_count {b : Byte} (hb : b.toNat < 128) {bytes : List Byte}
    (len : bytes.length = litCount b) : (Instr.lit bytes).wellFormed = true := by
  rw [wellFormed_lit, len, litCount]
  omega

/-- Settles O4: the two forms of a list that decodes, with each field written back as it was read. -/
theorem decodedRunEncodesToWhatWasRead : Obligations.DecodedRunEncodesToWhatWasRead := by
  intro bs i rest h
  obtain ⟨b, l, hb, rfl, rfl⟩ | ⟨b, tail, hb, rfl, enough, rfl, rfl⟩ := decode_ok h
  · refine ⟨wellFormed_ref_of_bytes hb l, ?_⟩
    rw [encode, refControl_refDistance, refLengthByte_refCount, List.cons_append, List.cons_append,
      List.nil_append]
  · have len : (tail.take (litCount b)).length = litCount b := List.length_take_of_le enough
    refine ⟨wellFormed_lit_of_count hb len, ?_⟩
    rw [encode, len, litControl_litCount, List.cons_append, List.take_append_drop]

/-- Settles O1: each of the six lists evaluates. -/
theorem knownRunsDecode : Obligations.KnownRunsDecode := ⟨rfl, rfl, rfl, rfl, rfl, rfl⟩

end Sys2Proof
end

section
/-! PROOFS. Reset, the write of `OUT` and the stops at the head of the loop (70_reset_and_hazards.md R210;
20_memory.md R53; 40_decoder_loop.md R102 to R104). -/

namespace Sys2Proof.Machine

/-- Settles O5: reset writes constants and keeps three inputs, and an empty memory reads as zero. -/
theorem resetLeavesTheStatedValues : Obligations.ResetLeavesTheStatedValues := fun _ =>
  ⟨Memory.read_nil, rfl, rfl, rfl, rfl, rfl, rfl, rfl, rfl, rfl, rfl, rfl⟩

/-- Settles O6: in range a write of `OUT` is a write of the memory, whose read law gives every byte. -/
theorem outWriteSetsOneByte : Obligations.OutWriteSetsOneByte := by
  intro a b s hout
  refine ⟨fun inside => ⟨s.out.write a b, writeOut_next.2 ⟨inside, rfl⟩, ?written, fun x other => ?framed⟩,
    fun outside => ?fault⟩
  case written => rw [Memory.read_write hout, if_pos rfl]
  case framed => rw [Memory.read_write hout, if_neg other]
  case fault => rw [writeOut, if_neg (Nat.not_lt.2 outside)]

/-! ### The cap test -/

theorem capHit_cursor {s : State} (kind : s.cfg.CAP_KIND = .CURSOR) :
    capHit s = true ↔ s.cfg.CAP.toNat ≤ s.c := by
  simp [capHit, kind]

theorem capHit_iter {s : State} (kind : s.cfg.CAP_KIND = .ITER) :
    capHit s = true ↔ s.cfg.CAP.toNat ≤ s.i := by
  simp [capHit, kind]

/-- Below the cap of its own kind the decoder does not stop at it. -/
theorem capHit_false {s : State} :
    capHit s = false ↔ (s.cfg.CAP_KIND = .CURSOR → s.c < s.cfg.CAP.toNat) ∧
      (s.cfg.CAP_KIND = .ITER → s.i < s.cfg.CAP.toNat) := by
  cases kind : s.cfg.CAP_KIND <;> simp [capHit, kind]

/-! ### The stops of the whole-run step -/

theorem runTop_stop {s : State} {why : Cause} (stops : loopTest s = some why) :
    runTop s = .next (raiseStop why s) := by rw [runTop, stops]

theorem runTop_overrun {s : State} (goesOn : loopTest s = none) (ends : s.N.toNat ≤ s.c) :
    runTop s = .next (raiseStop .OVERRUN s) := by
  rw [runTop, goesOn, readCin_none.2 ends]

/-- Settles O8: the answer of the loop test, then that of the fetch, decides the stop. -/
theorem loopTestStopsInOrder : Obligations.LoopTestStopsInOrder := by
  intro s hp hd
  rw [step_top hp hd]
  refine ⟨fun full => ?full, fun room kind hit => ?cursor, fun room kind hit => ?iter,
    fun room cursor iter ends => ?overrun⟩
  case full => exact runTop_stop (loopTest_some.2 (.inl ⟨full, rfl⟩))
  case cursor => exact runTop_stop (loopTest_some.2 (.inr ⟨room, (capHit_cursor kind).2 hit, rfl⟩))
  case iter => exact runTop_stop (loopTest_some.2 (.inr ⟨room, (capHit_iter kind).2 hit, rfl⟩))
  case overrun => exact runTop_overrun (loopTest_none.2 ⟨room, capHit_false.2 ⟨cursor, iter⟩⟩) ends

end Sys2Proof.Machine
end

section
/-! PROOFS. The steps of the sequencer and the moves of the host (44_pipeline.md R160 to R167;
60_exceptions.md R192, R193). -/

namespace Sys2Proof.Machine

/-! ### The step of the sequencer by its phase -/

theorem step_idle {s : State} (hp : s.pphase = .P_IDLE) : step s = .next (pipeBegin s) :=
  coreStep_idle _ hp

theorem step_load {s : State} (hp : s.pphase = .P_LOAD) : step s = pipeLoad s := coreStep_load _ hp

theorem step_patch {s : State} (hp : s.pphase = .P_PATCH) : step s = .next (pipePatch s) :=
  coreStep_patch _ hp

theorem step_write {s : State} (hp : s.pphase = .P_WRITE) : step s = .next (pipeWrite s) :=
  coreStep_write _ hp

theorem step_ended {s : State} (ended : s.pphase = .P_DONE ∨ s.pphase = .P_FAILED) :
    step s = .next s := coreStep_ended _ ended

/-! ### Step 1 -/

/-- A file fits `N` exactly when its bytes from `SRC_OFFSET` on are fewer than `2 ^ 32`. -/
theorem fileFits_iff {cfg : Config} {answer : HostFile} :
    fileFits cfg answer = true ↔
      ∀ file, answer = .contents file → file.length - cfg.SRC_OFFSET < 2 ^ 32 := by
  cases answer <;> simp [fileFits]

theorem pipeLoad_contents {s : State} {file : List Byte} (hf : s.hostFile = .contents file)
    (fits : fileFits s.cfg (.contents file) = true) :
    pipeLoad s = .next { resetDecoder (loadBuffer file s) with pphase := .P_DECODE } := by
  rw [pipeLoad, hf]
  exact if_pos fits

theorem pipeLoad_tooLong {s : State} {file : List Byte} (hf : s.hostFile = .contents file)
    (long : ¬ fileFits s.cfg (.contents file) = true) : pipeLoad s = .fault .bufferTooLong := by
  rw [pipeLoad, hf]
  exact if_neg long

/-- The loaded buffer in canonical form, with no byte at or beyond its length. -/
theorem loadBuffer_cin_below {file : List Byte} {s : State}
    (fits : fileFits s.cfg (.contents file) = true) :
    (loadBuffer file s).cin.below (loadBuffer file s).N.toNat = true :=
  Memory.below_ofBytes (by rw [Nat.zero_add, loadBuffer_N_toNat fits])

/-- Byte `a` of the loaded buffer is byte `SRC_OFFSET + a` of the file. -/
theorem read_loadBuffer (file : List Byte) (s : State) (a : Nat) :
    (loadBuffer file s).cin.read a = file.getD (s.cfg.SRC_OFFSET + a) 0 := by
  rw [loadBuffer_cin, Memory.read_ofBytes, if_pos (Nat.zero_le a)]
  simp [List.getD_eq_getElem?_getD, List.getElem?_drop]

/-- Settles O34: the host's answer decides between the failure, the fault and the load, whose buffer has the
bytes of the file from `SRC_OFFSET` on. -/
theorem loadTakesTheFileFromItsOffset : Obligations.LoadTakesTheFileFromItsOffset := by
  intro s hp
  rw [step_load hp]
  refine ⟨fun unreadable => ?fails, fun file hf long => ?faults, fun file hf short => ?loads⟩
  case fails => rw [pipeLoad, unreadable]; rfl
  case faults =>
    refine pipeLoad_tooLong hf fun fits => ?_
    have := fileFits_iff.1 fits file rfl
    omega
  case loads =>
    have fits : fileFits s.cfg (.contents file) = true := by
      rw [fileFits_iff]; rintro _ ⟨⟩; exact short
    have length : (loadBuffer file s).N.toNat = file.length - s.cfg.SRC_OFFSET := by
      rw [loadBuffer_N_toNat fits, List.length_drop]
    exact ⟨_, pipeLoad_contents hf fits, rfl, length, Memory.wf_ofBytes _ _,
      loadBuffer_cin_below fits, fun a _ => read_loadBuffer file s a⟩

/-! ### Steps 4 and 5 -/

/-- Settles O37: the host's answer and the test of `L` decide the next state, and the read laws of the patch
give `OUT`. -/
theorem patchOverwritesTheHeaderOnYes : Obligations.PatchOverwritesTheHeaderOnYes := by
  intro s hp hout
  rw [step_patch hp]
  refine ⟨fun no => ?no, fun yes short => ?refused, fun yes room =>
    ⟨(patchHeader s).out, ?patched, read_patchHeader_header hout,
      fun _ => read_patchHeader_beyond hout⟩⟩
  case no => rw [pipePatch, no]; rfl
  case refused => rw [pipePatch, yes]; simp only [if_pos short]; rfl
  case patched => rw [pipePatch, yes]; simp only [if_neg (Nat.not_lt.2 room)]; rfl

theorem image_length (s : State) : (image s).length = s.cfg.L.toNat := by simp [image]

/-- Settles O40: the image has one byte for each index below `L`, and the host's report decides the end. -/
theorem writeEndsTheRun : Obligations.WriteEndsTheRun := by
  intro s hp
  rw [step_write hp]
  refine ⟨if_pos (.inl hp), image_length s, fun success => ?done, fun failure => ?failed⟩
  case done => rw [pipeWrite, success]; rfl
  case failed => rw [pipeWrite, failure]; rfl

/-- Settles O42: each of the three waits is the case of its step without the host's answer. -/
theorem waitsChangeNothing : Obligations.WaitsChangeNothing := by
  refine fun s => ⟨fun hp waits => ?load, fun hp waits => ?patch, fun hp waits => ?write, step_ended⟩
  case load => rw [step_load hp, pipeLoad, waits]
  case patch => rw [step_patch hp, pipePatch, waits]
  case write => rw [step_write hp, pipeWrite, waits]

/-! ### The moves of the host -/

/-- A move that needs a permission is answered exactly where it is permitted. -/
theorem permitted_eq_some {permitted : Prop} [Decidable permitted] {u t : State} :
    (if permitted then some u else none) = some t ↔ permitted ∧ t = u := by
  simp [eq_comm]

theorem hostMove_reset {s t : State} : hostMove .reset s = some t ↔ t = applyReset s := by
  rw [hostMove, Option.some_inj, eq_comm]

theorem hostMove_configure {cfg : Config} {s t : State} :
    hostMove (.configure cfg) s = some t ↔
      s.pphase = .P_IDLE ∧ cfg.Legal ∧ fileFits cfg s.hostFile = true ∧ t = { s with cfg := cfg } := by
  rw [hostMove, permitted_eq_some, and_assoc, and_assoc]

theorem hostMove_supplyFile {answer : HostFile} {s t : State} :
    hostMove (.supplyFile answer) s = some t ↔
      (s.pphase = .P_IDLE ∨ s.pphase = .P_LOAD) ∧ fileFits s.cfg answer = true ∧
        t = { s with hostFile := answer } := by
  rw [hostMove, permitted_eq_some, and_assoc]

theorem hostMove_answerPatch {yes : Bool} {s t : State} :
    hostMove (.answerPatch yes) s = some t ↔
      s.pphase = .P_PATCH ∧ t = { s with hostPatch := some yes } := permitted_eq_some

theorem hostMove_reportWrite {ok : Bool} {s t : State} :
    hostMove (.reportWrite ok) s = some t ↔
      s.pphase = .P_WRITE ∧ t = { s with hostWrite := some ok } := permitted_eq_some

/-- Settles O55: the law of each move, with the test of the file's length written out. -/
theorem permittedHostMovesAreAnswered : Obligations.PermittedHostMovesAreAnswered := by
  intro s t
  refine ⟨fun cfg => ?configure, fun answer => ?supply, fun _ => hostMove_answerPatch,
    fun _ => hostMove_reportWrite, hostMove_reset⟩
  case configure => rw [hostMove_configure, fileFits_iff]
  case supply => rw [hostMove_supplyFile, fileFits_iff]

/-- Settles O45: the law of each move names the phases that leave it to the host and the one field it sets. -/
theorem hostDoesNotTouchAnActiveRun : Obligations.HostDoesNotTouchAnActiveRun := by
  intro move s t h
  cases move with
  | reset => exact .inl rfl
  | configure cfg =>
    obtain ⟨hp, -, -, rfl⟩ := hostMove_configure.1 h
    exact .inr ⟨by simp [hp], by simp [hp], fun active => absurd hp active, rfl⟩
  | supplyFile answer =>
    obtain ⟨hp, -, rfl⟩ := hostMove_supplyFile.1 h
    exact .inr ⟨by rintro hd; simp [hd] at hp, by rintro hc; simp [hc] at hp, fun _ => rfl, rfl⟩
  | answerPatch yes =>
    obtain ⟨hp, rfl⟩ := hostMove_answerPatch.1 h
    exact .inr ⟨by simp [hp], by simp [hp], fun _ => rfl, rfl⟩
  | reportWrite ok =>
    obtain ⟨hp, rfl⟩ := hostMove_reportWrite.1 h
    exact .inr ⟨by simp [hp], by simp [hp], fun _ => rfl, rfl⟩

end Sys2Proof.Machine
end

section
/-! PROOFS. What a run answers: always a next state (30_encoding.md R86), under the enabling conditions of
the copy steps (R122, R123, R132). -/

namespace Sys2Proof.Machine

/-- The conditions under which the step rules of a run are enabled (R122, R123, R132). -/
structure Enabled (s : State) : Prop where
  refLen : s.dphase = .REFLEN → s.n ≤ s.w
  refCopy : s.dphase = .REFCOPY → s.n ≤ s.w ∧ 1 ≤ s.k
  litCopy : s.dphase = .LITCOPY → 1 ≤ s.k

/-- Outside a run nothing is asked. -/
theorem Enabled.of_outside {s : State} (h : s.dphase = .IDLE ∨ s.dphase = .TOP ∨ s.dphase = .HALT) :
    Enabled s := by
  constructor <;> intro hd <;> simp [hd] at h

theorem enabled_raiseStop (why : Cause) (s : State) : Enabled (raiseStop why s) :=
  .of_outside (.inr (.inr rfl))

/-- A copied byte leaves the next copy step enabled, since it leaves the run where `k` reaches 0. -/
theorem Enabled.byteDone {s : State} (h : Enabled s) (k_pos : 1 ≤ s.k) : Enabled (byteDone s) := by
  by_cases last : s.k = 1
  · exact .of_outside (.inr (.inl (if_pos last)))
  · have same : (Machine.byteDone s).dphase = s.dphase := if_neg last
    refine ⟨fun hd => ?_, fun hd => ?_, fun _ => ?_⟩
    · exact Nat.le_succ_of_le (h.refLen (same ▸ hd))
    · exact ⟨Nat.le_succ_of_le (h.refCopy (same ▸ hd)).1, by simp; omega⟩
    · simp; omega

theorem enabled_litEntry (s : State) : Enabled (litEntry s) :=
  ⟨nofun, nofun, fun _ => Nat.le_add_left 1 _⟩

theorem enabled_refEntry (s : State) : Enabled (refEntry s) := by
  by_cases reaches : distance s ≤ s.w
  · rw [refEntry_enter reaches]; exact ⟨fun _ => reaches, nofun, nofun⟩
  · rw [refEntry_underflow (Nat.not_le.1 reaches)]; exact enabled_raiseStop _ _

theorem Enabled.refLen_step {s : State} (h : Enabled s) (hd : s.dphase = .REFLEN) (src : Option Byte) :
    Enabled (Machine.refLen src s) := by
  cases src with
  | none => exact enabled_raiseStop _ _
  | some b => exact ⟨nofun, fun _ => ⟨h.refLen hd, Nat.le_add_left 1 _⟩, nofun⟩

/-! ### The copy steps answer -/

theorem litCopy_answers {s : State} (h : Enabled s) (hd : s.dphase = .LITCOPY) (src : Option Byte) :
    ∃ t, litCopy src s = .next t ∧ Enabled t := by
  have k_pos := h.litCopy hd
  rcases Nat.lt_or_ge s.w s.cfg.L.toNat with room | full
  · cases src with
    | none => exact ⟨_, litCopy_next.2 (.inr (.inl ⟨room, rfl, rfl⟩)), enabled_raiseStop _ _⟩
    | some b =>
      exact ⟨_, litCopy_next.2 (.inr (.inr ⟨b, room, rfl, Nat.ne_of_gt k_pos, rfl⟩)),
        Enabled.byteDone ⟨h.1, h.2, h.3⟩ k_pos⟩
  · exact ⟨_, litCopy_next.2 (.inl ⟨full, rfl⟩), enabled_raiseStop _ _⟩

theorem refCopy_answers {s : State} (h : Enabled s) (hd : s.dphase = .REFCOPY) :
    ∃ t, refCopy s = .next t ∧ Enabled t := by
  obtain ⟨reaches, k_pos⟩ := h.refCopy hd
  rcases Nat.lt_or_ge s.w s.cfg.L.toNat with room | full
  · exact ⟨_, refCopy_next.2 (.inr ⟨room, reaches, Nat.ne_of_gt k_pos, rfl⟩),
      Enabled.byteDone ⟨h.1, h.2, h.3⟩ k_pos⟩
  · exact ⟨_, refCopy_next.2 (.inl ⟨full, rfl⟩), enabled_raiseStop _ _⟩

/-! ### The runs answer -/

theorem litRun_answers (bytes : List Byte) {s : State} (h : Enabled s) (hd : s.dphase = .LITCOPY) :
    ∃ t, litRun bytes s = .next t := by
  induction bytes generalizing s with
  | nil => exact ⟨s, rfl⟩
  | cons b bytes ih =>
    obtain ⟨t, copied, ht⟩ := litCopy_answers h hd (operandByte s b)
    by_cases more : t.dphase = .LITCOPY
    · obtain ⟨u, rest⟩ := ih ht more
      exact ⟨u, by rw [litRun, copied]; simp only [if_pos more, rest]⟩
    · exact ⟨t, by rw [litRun, copied]; exact if_neg more⟩

theorem refRun_answers (count : Nat) {s : State} (h : Enabled s) (hd : s.dphase = .REFCOPY) :
    ∃ t, refRun count s = .next t := by
  induction count generalizing s with
  | zero => exact ⟨s, rfl⟩
  | succ count ih =>
    obtain ⟨t, copied, ht⟩ := refCopy_answers h hd
    by_cases more : t.dphase = .REFCOPY
    · obtain ⟨u, rest⟩ := ih ht more
      exact ⟨u, by rw [refRun, copied]; simp only [if_pos more, rest]⟩
    · exact ⟨t, by rw [refRun, copied]; exact if_neg more⟩

theorem execLit_answers (bytes : List Byte) (s : State) : ∃ t, execLit bytes s = .next t := by
  cases control : operandByte s (litControl bytes.length) with
  | none => exact ⟨_, by rw [execLit, control]⟩
  | some b =>
    rw [execLit, control]
    exact litRun_answers bytes (enabled_litEntry _) rfl

theorem refRest_answers (lengthByte : Byte) {s : State} (h : Enabled s) (hd : s.dphase = .REFLEN) :
    ∃ t, refRest lengthByte s = .next t := by
  cases read : operandByte s lengthByte with
  | none => exact ⟨_, by rw [refRest, read]⟩
  | some b =>
    rw [refRest, read]
    exact refRun_answers _ (h.refLen_step hd (some b)) rfl

theorem execRef_answers (n count : Nat) (s : State) : ∃ t, execRef n count s = .next t := by
  cases control : operandByte s (refControl n) with
  | none => exact ⟨_, by rw [execRef, control]⟩
  | some b =>
    rw [execRef, control]
    by_cases enters : (refEntry (fetched b s)).dphase = .REFLEN
    · simp only [if_pos enters]
      exact refRest_answers _ (enabled_refEntry _) enters
    · exact ⟨_, if_neg enters⟩

/-- Settles O22: the entry of each run meets the enabling conditions of its copy steps, and every copy step
keeps them; under them none faults. -/
theorem everyRunAnswersANextState : Obligations.EveryRunAnswersANextState := by
  intro i s
  cases i with
  | lit bytes => exact execLit_answers bytes s
  | ref n count => exact execRef_answers n count s

end Sys2Proof.Machine
end

section
/-! PROOFS. The two runs that complete, the closed form of the copy, and the split of a literal run
(42_literal_run.md R130; 41_backref_run.md R120, section 3; 30_encoding.md section 6). -/

namespace Sys2Proof.Machine

/-! ### Runs with room for all their bytes -/

/-- Settles O17: with room in stream and output the number of copied bytes is that of the run. -/
theorem litRunCompletes : Obligations.LitRunCompletes := by
  intro bytes s hwf hout stream room
  obtain ⟨pos, -⟩ := wellFormed_lit.1 hwf
  have all : bytes.length = min bytes.length (min (s.cfg.L.toNat - s.w) (s.N.toNat - (s.c + 1))) := by
    omega
  obtain ⟨m, run, bytesOf⟩ := (litRunCopiesUntilItEndsOrStops bytes s hwf hout).2 (by omega) _ all
  refine ⟨m, ?_, bytesOf⟩
  rw [run]
  simp

/-- Settles O19: with room in the output the number of copied bytes is the count of the run. -/
theorem refRunCompletes : Obligations.RefRunCompletes := by
  intro n count s hwf hout reaches stream room
  have all : count = min count (s.cfg.L.toNat - s.w) := by omega
  obtain ⟨-, -, -, copies⟩ := refRunCopiesUntilItEndsOrStops n count s hwf hout
  obtain ⟨m, run, copied, framed⟩ := copies (by omega) reaches _ all
  refine ⟨m, ?_, copied, framed⟩
  rw [run]
  simp

/-! ### The closed form -/

/-- Bytes that each equal the one `n` positions before them repeat the `n` bytes before the first. -/
theorem read_cyclic {m m' : Memory} {n w count : Nat} (pos : 1 ≤ n) (reaches : n ≤ w)
    (copied : ∀ a, w ≤ a → a < w + count → m'.read a = m'.read (a - n))
    (before : ∀ a, a < w → m'.read a = m.read a) {x : Nat} (hx : x < count) :
    m'.read (w + x) = m.read (w - n + x % n) := by
  induction x using Nat.strong_induction_on with
  | _ x ih =>
    rw [copied (w + x) (Nat.le_add_right w x) (by omega)]
    rcases Nat.lt_or_ge x n with first | later
    · rw [Nat.mod_eq_of_lt first, show w + x - n = w - n + x by omega]
      exact before _ (by omega)
    · rw [Nat.mod_eq_sub_mod later, show w + x - n = w + (x - n) by omega]
      exact ih (x - n) (by omega) (by omega)

/-- Settles O21: the bytes of a run whose length byte is present are cyclic. -/
theorem refRunRepeatsThePattern : Obligations.RefRunRepeatsThePattern := by
  intro n count s t hwf hout reaches stream run
  obtain ⟨⟨pos, -⟩, -⟩ := wellFormed_ref.1 hwf
  obtain ⟨-, -, -, copies⟩ := refRunCopiesUntilItEndsOrStops n count s hwf hout
  obtain ⟨m, run', copied, framed⟩ := copies stream reaches _ rfl
  cases run.symm.trans run'
  exact ⟨rfl, fun x hx => read_cyclic pos reaches copied (fun a ha => framed a (.inl ha)) (by simpa using hx)⟩

/-! ### Splitting a literal run -/

theorem Memory.writeBytes_append (m : Memory) (a : Nat) (xs ys : List Byte) :
    m.writeBytes a (xs ++ ys) = (m.writeBytes a xs).writeBytes (a + xs.length) ys := by
  induction xs generalizing m a with
  | nil => rfl
  | cons x xs ih =>
    rw [List.cons_append, Memory.writeBytes_cons, ih, Memory.writeBytes_cons, List.length_cons,
      Nat.add_assoc, Nat.add_comm 1]

/-- `LIT` with room for all its bytes, for any `OUT`. -/
theorem execLit_complete {bytes : List Byte} {s : State} (hwf : (Instr.lit bytes).wellFormed = true)
    (stream : s.c + 1 + bytes.length ≤ s.N.toNat) (room : s.w + bytes.length ≤ s.cfg.L.toNat) :
    execLit bytes s = .next
      { s with
        out := s.out.writeBytes s.w bytes, c := s.c + 1 + bytes.length, w := s.w + bytes.length
        i := s.i + 1, v := litControl bytes.length, k := 0, dphase := .TOP } := by
  obtain ⟨pos, -⟩ := wellFormed_lit.1 hwf
  rw [execLit_eq bytes s hwf (by omega) (done := bytes.length) (by omega)]
  simp

/-- Settles O24: all three runs complete, and writing two lists one after the other is writing them as
one. -/
theorem splitLiteralRunsWriteTheSame : Obligations.SplitLiteralRunsWriteTheSame := by
  intro xs ys s t u r hwf hxs hys stream room both first second
  obtain ⟨-, le⟩ := wellFormed_lit.1 hwf
  have xs_pos := List.length_pos_iff.2 hxs
  have ys_pos := List.length_pos_iff.2 hys
  rw [List.length_append] at stream room le
  rw [exec_lit] at both first second
  rw [execLit_complete hwf (by rw [List.length_append]; omega) (by rw [List.length_append]; omega)] at both
  rw [execLit_complete (wellFormed_lit.2 (by omega)) (by omega) (by omega)] at first
  cases both
  cases first
  rw [execLit_complete (wellFormed_lit.2 (by omega)) (by simp only; omega) (by simp only; omega)] at second
  cases second
  refine ⟨(Memory.writeBytes_append ..).symm, ?_, ?_, rfl, rfl⟩ <;>
    simp only [List.length_append] <;> omega

end Sys2Proof.Machine
end

section
/-! PROOFS. The frame of the two runs (60_exceptions.md R193). -/

namespace Sys2Proof.Machine

/-- Settles O23: each of the cases of the two runs names its next state whole, and the read laws of what it
wrote give `OUT` outside `[w, w')`. -/
theorem runsChangeOnlyDecoderState : Obligations.RunsChangeOnlyDecoderState := by
  intro i s t hwf hout run
  cases i with
  | lit bytes =>
    obtain ⟨noControl, copies⟩ := litRunCopiesUntilItEndsOrStops bytes s hwf hout
    rcases Nat.lt_or_ge s.c s.N.toNat with stream | ends
    · obtain ⟨m, run', written⟩ := copies stream _ rfl
      cases run.symm.trans run'
      refine ⟨rfl, fun _ _ => ⟨rfl, rfl⟩, ?phase, ?cause, fun a outside => ?framed, ?cursors⟩
      case phase => simp only; split <;> simp
      case cause => simp only; split <;> simp
      case framed => exact (written a).trans (if_neg (by simp only at outside; omega))
      case cursors => simp [Instr.byteLength]; omega
    · cases run.symm.trans (noControl ends)
      exact ⟨rfl, fun _ _ => ⟨rfl, rfl⟩, .inr rfl, nofun, fun _ _ => rfl, by simp⟩
  | ref n count =>
    obtain ⟨noControl, underflow, noLength, copies⟩ := refRunCopiesUntilItEndsOrStops n count s hwf hout
    rcases Nat.lt_or_ge s.c s.N.toNat with stream | ends
    · rcases Nat.lt_or_ge s.w n with short | reaches
      · cases run.symm.trans (underflow stream short)
        exact ⟨rfl, nofun, .inr rfl, nofun, fun _ _ => rfl, by simp [Instr.byteLength]⟩
      · rcases Nat.lt_or_ge (s.c + 1) s.N.toNat with more | last
        · obtain ⟨m, run', -, framed⟩ := copies more reaches _ rfl
          cases run.symm.trans run'
          refine ⟨rfl, nofun, ?phase, ?cause, framed, ?cursors⟩
          case phase => simp only; split <;> simp
          case cause => simp only; split <;> simp
          case cursors => simp [Instr.byteLength]
        · cases run.symm.trans (noLength (by omega) reaches)
          exact ⟨rfl, nofun, .inr rfl, nofun, fun _ _ => rfl, by simp [Instr.byteLength]⟩
    · cases run.symm.trans (noControl ends)
      exact ⟨rfl, nofun, .inr rfl, nofun, fun _ _ => rfl, by simp⟩

end Sys2Proof.Machine
end

section
/-! PROOFS. Every fetch runs an instruction (40_decoder_loop.md R103; 30_encoding.md R86), and no step is
refused. -/

namespace Sys2Proof.Machine

/-! ### The instruction at the cursor -/

/-- The bytes of the run at the cursor decode to one well-formed instruction and nothing else. -/
theorem runWindow_decodes (s : State) :
    ∃ i : Instr, i.wellFormed = true ∧ decode (runWindow s) = .ok (i, []) := by
  refine ⟨_, ?_, decode_runWindow s⟩
  split
  case isTrue hb => exact wellFormed_ref_of_bytes hb _
  case isFalse hb => exact wellFormed_lit_of_count (Nat.not_le.1 hb) (by simp)

/-- Where a control byte can be fetched the step is the run that the window decodes to. -/
theorem runTop_decoded {s : State} {i : Instr} {rest : List Byte} (goesOn : loopTest s = none)
    (stream : s.c < s.N.toNat) (h : decode (runWindow s) = .ok (i, rest)) : runTop s = exec i s := by
  rw [runTop, goesOn, readCin_some.2 ⟨stream, rfl⟩]
  simp only [h]

theorem runTop_answers (s : State) : ∃ t, runTop s = .next t := by
  cases goesOn : loopTest s with
  | some why => exact ⟨_, runTop_stop goesOn⟩
  | none =>
    rcases Nat.lt_or_ge s.c s.N.toNat with stream | ends
    · obtain ⟨i, -, h⟩ := runWindow_decodes s
      rw [runTop_decoded goesOn stream h]
      exact everyRunAnswersANextState i s
    · exact ⟨_, runTop_overrun goesOn ends⟩

theorem microTop_answers (s : State) : ∃ t, microTop s = .next t := by
  cases goesOn : loopTest s with
  | some why => exact ⟨_, microTop_stop goesOn⟩
  | none =>
    rcases Nat.lt_or_ge s.c s.N.toNat with stream | ends
    · exact ⟨_, microTop_fetch goesOn (readCin_some.2 ⟨stream, rfl⟩)⟩
    · exact ⟨_, microTop_overrun goesOn ends⟩

/-! ### No operation refuses -/

theorem copyByte_ne_refused (b : Byte) (s : State) (r : Refusal) : copyByte b s ≠ .refused r := by
  simp only [copyByte, writeOut]
  split_ifs <;> simp

theorem litCopy_ne_refused (src : Option Byte) (s : State) (r : Refusal) :
    litCopy src s ≠ .refused r := by
  cases src with
  | none => rw [litCopy]; split_ifs <;> simp
  | some b =>
    rw [litCopy]
    split
    · simp
    · exact copyByte_ne_refused b _ r

theorem refCopy_ne_refused (s : State) (r : Refusal) : refCopy s ≠ .refused r := by
  rw [refCopy]
  split
  · simp
  · split
    · simp
    · exact copyByte_ne_refused _ s r

theorem pipeDecoded_ne_refused (s : State) (r : Refusal) : pipeDecoded s ≠ .refused r := by
  rw [pipeDecoded]
  split <;> simp

theorem pipeLoad_ne_refused (s : State) (r : Refusal) : pipeLoad s ≠ .refused r := by
  obtain ⟨-, h⟩ | ⟨-, h⟩ | ⟨_, -, -, h⟩ | ⟨-, h⟩ := pipeLoad_cases s <;> simp [h]

theorem crcLoad_ne_refused (s : State) (r : Refusal) : crcLoad s ≠ .refused r := by
  rw [crcLoad]
  split
  · simp
  · split <;> simp

theorem crcBit_ne_refused (s : State) (r : Refusal) : crcBit s ≠ .refused r := by
  rw [crcBit]
  split_ifs <;> simp

theorem checkStep_ne_refused (s : State) (r : Refusal) : checkStep s ≠ .refused r := by
  rw [checkStep]
  split
  · simp
  · exact crcLoad_ne_refused s r
  · exact crcBit_ne_refused s r
  · simp

theorem decodeStep_ne_refused {top : State → Outcome} {s : State} {r : Refusal}
    (htop : top s ≠ .refused r) : decodeStep top s ≠ .refused r := by
  rw [decodeStep]
  split
  · simp
  · exact htop
  · simp
  · exact refCopy_ne_refused s r
  · exact litCopy_ne_refused _ s r
  · exact pipeDecoded_ne_refused s r

/-- A step refuses only where the step at the head of the loop does. -/
theorem coreStep_ne_refused {top : State → Outcome} {s : State} {r : Refusal}
    (htop : top s ≠ .refused r) : coreStep top s ≠ .refused r := by
  rw [coreStep]
  split
  · simp
  · exact pipeLoad_ne_refused s r
  · exact decodeStep_ne_refused htop
  · exact checkStep_ne_refused s r
  all_goals simp

/-- Settles O16: the window at the cursor always decodes, and of the operations only the head of the loop
could refuse, which answers. -/
theorem everyFetchRunsAnInstruction : Obligations.EveryFetchRunsAnInstruction := by
  intro s
  refine ⟨fun hp hd room below stream => ?fetch, fun r => ?step, fun r => ?microStep⟩
  case fetch =>
    obtain ⟨i, hwf, h⟩ := runWindow_decodes s
    refine ⟨i, hwf, h, ?_⟩
    rw [step_top hp hd, runTop_decoded (loopTest_none.2 ⟨room, below⟩) stream h]
  case step =>
    obtain ⟨t, h⟩ := runTop_answers s
    exact coreStep_ne_refused (by simp [h])
  case microStep =>
    obtain ⟨t, h⟩ := microTop_answers s
    exact coreStep_ne_refused (by simp [h])

/-! ### The instruction the rest of the stream begins with -/

/-- A front of the rest of the stream is the bytes of `CIN` from the cursor on. -/
theorem streamFrom_front {s : State} {front rest : List Byte} (h : front ++ rest = streamFrom s) :
    front = (List.range front.length).map fun t => s.cin.read (s.c + t) := by
  have le : front.length ≤ s.N.toNat - s.c := by
    have := congrArg List.length h
    rw [List.length_append, streamFrom, List.length_map, List.length_range] at this
    omega
  calc front
    _ = (front ++ rest).take front.length := List.take_left.symm
    _ = _ := by rw [h, streamFrom, ← List.map_take, List.take_range, Nat.min_eq_left le]

/-- The law of the length of an encoding, for every run. -/
theorem encode_length (i : Instr) : Laws.EncodedLength.Statement i := by
  cases i with
  | lit bytes => exact Laws.EncodedLength.lit bytes
  | ref n count => exact Laws.EncodedLength.ref n count

/-- The window at the cursor is the encoding of the run that the rest of the stream begins with. -/
theorem runWindow_eq_encode {s : State} {i : Instr} {rest : List Byte} (hwf : i.wellFormed = true)
    (h : encode i ++ rest = streamFrom s) : runWindow s = encode i := by
  obtain ⟨length, -, -, control, operands, henc, hrun⟩ := encode_length i hwf
  have front := streamFrom_front h
  have first : s.cin.read s.c = control := by
    have := congrArg (·.head?) front
    rw [length, ← hrun] at this
    have pos : 0 < runLength control := by rw [hrun, ← length, henc]; simp
    obtain ⟨d, hd⟩ : ∃ d, runLength control = d + 1 := ⟨_, (Nat.sub_add_cancel pos).symm⟩
    simpa [henc, hd, List.range_succ_eq_map, eq_comm] using this
  rw [runWindow, first, hrun, ← length]
  exact front.symm

/-- Settles O15: the window at the cursor holds the very bytes that the rest of the stream was decoded
from. -/
theorem stepRunsTheDecodedInstruction : Obligations.StepRunsTheDecodedInstruction := by
  intro s i rest hp hd room below hwf h
  obtain ⟨-, front⟩ := decodedRunEncodesToWhatWasRead _ i rest h
  have window : decode (runWindow s) = .ok (i, []) := by
    rw [runWindow_eq_encode hwf front, ← List.append_nil (encode i)]
    exact encodedRunDecodesToItself i [] hwf
  have stream : s.c < s.N.toNat := by
    by_contra ends
    have : streamFrom s = [] := by simp [streamFrom, Nat.sub_eq_zero_of_le (Nat.not_lt.1 ends)]
    rw [this] at h
    cases h
  rw [step_top hp hd, runTop_decoded (loopTest_none.2 ⟨room, below⟩) stream window]

end Sys2Proof.Machine
end

section
/-! PROOFS. The moves of the decoder: everything a step of R12 can do in step 2 of the pipeline before the
decoder has halted (40_decoder_loop.md R101 to R104; 41_backref_run.md R121 to R123; 42_literal_run.md R131,
R132). -/

namespace Sys2Proof.Machine

/-! ### The distance in the control byte -/

theorem neg_sext8_toNat {b : Byte} (hb : 128 ≤ b.toNat) : (-(sext8 b)).toNat = refDistance b := by
  rw [sext8_of_ge hb, refDistance]
  omega

theorem distance_fetched {b : Byte} (hb : 128 ≤ b.toNat) (s : State) :
    distance (fetched b s) = refDistance b := neg_sext8_toNat hb

theorem refDistance_pos (b : Byte) : 1 ≤ refDistance b := Nat.sub_pos_of_lt b.isLt

theorem refDistance_le {b : Byte} (hb : 128 ≤ b.toNat) : refDistance b ≤ 128 := by
  rw [refDistance]; omega

/-! ### The moves -/

/-- What one step of R12 does to a decoder that has not halted, with the conditions under which it does it. -/
inductive DecoderMove (s : State) : State → Prop where
  /-- START (R101) -/
  | start (hd : s.dphase = .IDLE) : DecoderMove s (decStart s)
  /-- the output is full, at the head of the loop or in a copy step (R102, R123, R132) -/
  | full (hd : s.dphase = .TOP ∨ s.dphase = .REFCOPY ∨ s.dphase = .LITCOPY)
      (full : s.cfg.L.toNat ≤ s.w) : DecoderMove s (raiseStop .FULL s)
  /-- the cap is reached (R104) -/
  | cap (hd : s.dphase = .TOP) (room : s.w < s.cfg.L.toNat) (hit : capHit s = true) :
      DecoderMove s (raiseStop .CAP s)
  /-- the control byte is missing (R103) -/
  | noControl (hd : s.dphase = .TOP) (room : s.w < s.cfg.L.toNat) (below : capHit s = false)
      (ends : s.N.toNat ≤ s.c) : DecoderMove s (raiseStop .OVERRUN s)
  /-- the length byte is missing (R122) -/
  | noLength (hd : s.dphase = .REFLEN) (ends : s.N.toNat ≤ s.c) : DecoderMove s (raiseStop .OVERRUN s)
  /-- a literal byte is missing (R132) -/
  | noLiteral (hd : s.dphase = .LITCOPY) (room : s.w < s.cfg.L.toNat) (ends : s.N.toNat ≤ s.c) :
      DecoderMove s (raiseStop .OVERRUN s)
  /-- the fetch and the entry of a literal run (R103, R131) -/
  | literal (hd : s.dphase = .TOP) (room : s.w < s.cfg.L.toNat) (below : capHit s = false)
      (stream : s.c < s.N.toNat) (hb : (s.cin.read s.c).toNat < 128) :
      DecoderMove s (litEntry (fetched (s.cin.read s.c) s))
  /-- the fetch of a back-reference run whose distance is too long (R121) -/
  | underflow (hd : s.dphase = .TOP) (room : s.w < s.cfg.L.toNat) (below : capHit s = false)
      (stream : s.c < s.N.toNat) (hb : 128 ≤ (s.cin.read s.c).toNat)
      (short : s.w < refDistance (s.cin.read s.c)) :
      DecoderMove s (raiseStop .UNDERFLOW
        { fetched (s.cin.read s.c) s with n := refDistance (s.cin.read s.c) })
  /-- the fetch and the entry of a back-reference run (R121) -/
  | reference (hd : s.dphase = .TOP) (room : s.w < s.cfg.L.toNat) (below : capHit s = false)
      (stream : s.c < s.N.toNat) (hb : 128 ≤ (s.cin.read s.c).toNat)
      (reaches : refDistance (s.cin.read s.c) ≤ s.w) :
      DecoderMove s
        { fetched (s.cin.read s.c) s with n := refDistance (s.cin.read s.c), dphase := .REFLEN }
  /-- the length byte (R122) -/
  | lengthByte (hd : s.dphase = .REFLEN) (stream : s.c < s.N.toNat) :
      DecoderMove s (refLen (some (s.cin.read s.c)) s)
  /-- one byte of a back-reference run (R123) -/
  | refByte (hd : s.dphase = .REFCOPY) (room : s.w < s.cfg.L.toNat) (reaches : s.n ≤ s.w)
      (k_ne : s.k ≠ 0) :
      DecoderMove s (byteDone { s with out := s.out.write s.w (s.out.read (s.w - s.n)) })
  /-- one byte of a literal run (R132) -/
  | litByte (hd : s.dphase = .LITCOPY) (room : s.w < s.cfg.L.toNat) (stream : s.c < s.N.toNat)
      (k_ne : s.k ≠ 0) :
      DecoderMove s (byteDone { s with c := s.c + 1, out := s.out.write s.w (s.cin.read s.c) })

/-! ### The small step by the phase of the decoder -/

theorem microStep_idle {s : State} (hp : s.pphase = .P_DECODE) (hd : s.dphase = .IDLE) :
    microStep s = .next (decStart s) := by
  rw [microStep, coreStep_decode _ hp, decodeStep_idle _ hd]

theorem microStep_refLen {s : State} (hp : s.pphase = .P_DECODE) (hd : s.dphase = .REFLEN) :
    microStep s = .next (refLen (readCin s s.c) s) :=
  (microStep_eq_step (by simp [hd])).trans (step_refLen hp hd)

theorem microStep_refCopy {s : State} (hp : s.pphase = .P_DECODE) (hd : s.dphase = .REFCOPY) :
    microStep s = refCopy s := (microStep_eq_step (by simp [hd])).trans (step_refCopy hp hd)

theorem microStep_litCopy {s : State} (hp : s.pphase = .P_DECODE) (hd : s.dphase = .LITCOPY) :
    microStep s = litCopy (readCin s s.c) s :=
  (microStep_eq_step (by simp [hd])).trans (step_litCopy hp hd)

/-- A TOP step of R12 is one of the moves. -/
theorem decoderMove_of_microTop {s t : State} (hd : s.dphase = .TOP) (h : microTop s = .next t) :
    DecoderMove s t := by
  obtain ⟨full, h'⟩ | ⟨room, hit, h'⟩ | ⟨room, below, ends, h'⟩ | ⟨room, below, stream, hb, h'⟩ |
    ⟨room, below, stream, hb, h'⟩ := microTop_cases s <;> cases h.symm.trans h'
  · exact .full (.inl hd) full
  · exact .cap hd room hit
  · exact .noControl hd room below ends
  · have hdist := distance_fetched hb s
    rcases Nat.lt_or_ge s.w (refDistance (s.cin.read s.c)) with short | reaches
    · rw [refEntry_underflow (s := fetched _ s) (short.trans_eq hdist.symm), hdist]
      exact .underflow hd room below stream hb short
    · rw [refEntry_enter (s := fetched _ s) (hdist.trans_le reaches), hdist]
      exact .reference hd room below stream hb reaches
  · exact .literal hd room below stream hb

/-- A step of R12 in step 2 of the pipeline is one of the moves until the decoder has halted. -/
theorem decoderMove_of_microStep {s t : State} (hp : s.pphase = .P_DECODE) (running : s.dphase ≠ .HALT)
    (h : microStep s = .next t) : DecoderMove s t := by
  cases hd : s.dphase with
  | IDLE => cases h.symm.trans (microStep_idle hp hd); exact .start hd
  | TOP => rw [microStep_top hp hd] at h; exact decoderMove_of_microTop hd h
  | REFLEN =>
    rw [microStep_refLen hp hd] at h
    cases h
    cases read : readCin s s.c with
    | none => exact .noLength hd (readCin_none.1 read)
    | some b => obtain ⟨stream, rfl⟩ := readCin_some.1 read; exact .lengthByte hd stream
  | REFCOPY =>
    rw [microStep_refCopy hp hd] at h
    obtain ⟨full, rfl⟩ | ⟨room, reaches, k_ne, rfl⟩ := refCopy_next.1 h
    · exact .full (.inr (.inl hd)) full
    · exact .refByte hd room reaches k_ne
  | LITCOPY =>
    rw [microStep_litCopy hp hd] at h
    obtain ⟨full, rfl⟩ | ⟨room, read, rfl⟩ | ⟨b, room, read, k_ne, rfl⟩ := litCopy_next.1 h
    · exact .full (.inr (.inr hd)) full
    · exact .noLiteral hd room (readCin_none.1 read)
    · obtain ⟨stream, rfl⟩ := readCin_some.1 read
      exact .litByte hd room stream k_ne
  | HALT => exact absurd hd running

/-! ### What every move leaves -/

/-- A move writes only registers of the decoder and `OUT`. -/
theorem DecoderMove.frame {s t : State} (h : DecoderMove s t) :
    t = { s with
          out := t.out, c := t.c, w := t.w, i := t.i, v := t.v, n := t.n, len := t.len, k := t.k
          dphase := t.dphase, cause := t.cause } := by
  cases h <;> rfl

theorem DecoderMove.pphase_eq {s t : State} (h : DecoderMove s t) : t.pphase = s.pphase := by rw [h.frame]

theorem DecoderMove.cfg_eq {s t : State} (h : DecoderMove s t) : t.cfg = s.cfg := by rw [h.frame]

theorem DecoderMove.cin_eq {s t : State} (h : DecoderMove s t) : t.cin = s.cin := by rw [h.frame]

theorem DecoderMove.N_eq {s t : State} (h : DecoderMove s t) : t.N = s.N := by rw [h.frame]

/-- A move writes at `w` alone, and only if `w` moves on. -/
theorem DecoderMove.framed_out {s t : State} (h : DecoderMove s t) (hout : s.out.wf = true) {a : Nat}
    (outside : a < s.w ∨ t.w ≤ a) : t.out.read a = s.out.read a := by
  cases h
  case refByte | litByte =>
    simp only [byteDone_w, byteDone_out] at outside ⊢
    rw [Memory.read_write hout, if_neg (by omega)]
  all_goals rfl

/-- A copied byte does not halt the decoder. -/
theorem byteDone_running {s : State} (hd : s.dphase ≠ .HALT) : (byteDone s).dphase ≠ .HALT := by
  rw [byteDone_dphase]
  split
  · simp
  · exact hd

/-- Settles O13: of the moves those that end in HALT are the stops, which write no byte. -/
theorem stoppingStepWritesNothing : Obligations.StoppingStepWritesNothing := by
  intro s t hp running h halts
  cases decoderMove_of_microStep hp running h
  case full | cap | noControl | noLength | noLiteral | underflow =>
    exact ⟨rfl, rfl, rfl, nofun, rfl⟩
  case refByte | litByte => exact absurd halts (byteDone_running running)
  all_goals cases halts

/-- A move keeps the enabling conditions of the moves after it. -/
theorem DecoderMove.enabled {s t : State} (h : DecoderMove s t) (hs : Enabled s) : Enabled t := by
  cases h with
  | start => exact .of_outside (.inr (.inl rfl))
  | full | cap | noControl | noLength | noLiteral | underflow => exact enabled_raiseStop _ _
  | literal => exact enabled_litEntry _
  | reference _ _ _ _ _ reaches => exact ⟨fun _ => reaches, nofun, nofun⟩
  | lengthByte hd => exact hs.refLen_step hd _
  | refByte _ _ _ k_ne => exact Enabled.byteDone ⟨hs.1, hs.2, hs.3⟩ (Nat.pos_of_ne_zero k_ne)
  | litByte _ _ _ k_ne => exact Enabled.byteDone ⟨hs.1, hs.2, hs.3⟩ (Nat.pos_of_ne_zero k_ne)

/-- Where the enabling conditions hold a running decoder makes a move. -/
theorem Enabled.moves {s : State} (h : Enabled s) (hp : s.pphase = .P_DECODE)
    (running : s.dphase ≠ .HALT) : ∃ t, microStep s = .next t ∧ DecoderMove s t := by
  have answers : ∃ t, microStep s = .next t := by
    cases hd : s.dphase with
    | IDLE => exact ⟨_, microStep_idle hp hd⟩
    | TOP => rw [microStep_top hp hd]; exact microTop_answers s
    | REFLEN => exact ⟨_, microStep_refLen hp hd⟩
    | REFCOPY =>
      obtain ⟨t, copied, -⟩ := refCopy_answers h hd
      exact ⟨t, (microStep_refCopy hp hd).trans copied⟩
    | LITCOPY =>
      obtain ⟨t, copied, -⟩ := litCopy_answers h hd (readCin s s.c)
      exact ⟨t, (microStep_litCopy hp hd).trans copied⟩
    | HALT => exact absurd hd running
  obtain ⟨t, ht⟩ := answers
  exact ⟨t, ht, decoderMove_of_microStep hp running ht⟩

end Sys2Proof.Machine
end

section
/-! PROOFS. Several steps one after the other: a whole run is its small steps (00_scope.md R12), and every
decode stops (40_decoder_loop.md R108). -/

namespace Sys2Proof.Machine

/-! ### Running steps -/

theorem runSteps_succ {f : State → Outcome} {s t : State} (h : f s = .next t) (m : Nat) :
    runSteps f (m + 1) s = runSteps f m t := by
  rw [runSteps, h]

theorem runSteps_one (f : State → Outcome) (s : State) : runSteps f 1 s = f s := by
  rw [runSteps]
  split <;> simp_all [runSteps]

/-- What one step keeps, any number of steps keeps. -/
theorem runSteps_keeps {f : State → Outcome} {P : State → Prop}
    (keeps : ∀ s t, P s → f s = .next t → P t) {m : Nat} {s t : State} (hs : P s)
    (h : runSteps f m s = .next t) : P t := by
  induction m generalizing s with
  | zero => cases h; exact hs
  | succ m ih =>
    cases hu : f s with
    | next u => rw [runSteps_succ hu] at h; exact ih (keeps s u hs hu) h
    | fault r => rw [runSteps, hu] at h; cases h
    | refused r => rw [runSteps, hu] at h; cases h

/-- Steps that lower a measure until a goal is reached reach it, in at most as many steps as the measure
says. -/
theorem runSteps_descent {f : State → Outcome} {P goal : State → Prop} {measure : State → Nat}
    (descends : ∀ s, P s → ¬ goal s → ∃ t, f s = .next t ∧ P t ∧ measure t < measure s) {s : State}
    (hs : P s) : ∃ m t, m ≤ measure s ∧ runSteps f m s = .next t ∧ P t ∧ goal t := by
  induction hm : measure s using Nat.strong_induction_on generalizing s with
  | _ bound ih =>
    by_cases reached : goal s
    · exact ⟨0, s, Nat.zero_le _, rfl, hs, reached⟩
    · obtain ⟨u, hu, hPu, lower⟩ := descends s hs reached
      obtain ⟨m, t, le, run, ht⟩ := ih (measure u) (hm ▸ lower) hPu rfl
      exact ⟨m + 1, t, by omega, (runSteps_succ hu m).trans run, ht⟩

/-! ### A whole run is its small steps -/

/-- The copy loop of a back-reference run is that many small steps, or fewer where it ends before. -/
theorem refRun_eq_runSteps (count : Nat) {s : State} (hp : s.pphase = .P_DECODE)
    (hd : s.dphase = .REFCOPY) : ∃ m ≤ count, runSteps microStep m s = refRun count s := by
  induction count generalizing s with
  | zero => exact ⟨0, le_refl 0, rfl⟩
  | succ count ih =>
    have copy := microStep_refCopy hp hd
    cases h : refCopy s with
    | next t =>
      rw [h] at copy
      rw [refRun, h]
      by_cases more : t.dphase = .REFCOPY
      · have move := decoderMove_of_microStep hp (by simp [hd]) copy
        obtain ⟨m, le, run⟩ := ih (move.pphase_eq.trans hp) more
        refine ⟨m + 1, Nat.succ_le_succ le, ?_⟩
        rw [runSteps_succ copy, run]
        exact (if_pos more).symm
      · refine ⟨1, Nat.succ_le_succ (Nat.zero_le _), ?_⟩
        rw [runSteps_one, copy]
        exact (if_neg more).symm
    | fault r =>
      exact ⟨1, Nat.succ_le_succ (Nat.zero_le _), by rw [runSteps_one, copy, refRun, h]⟩
    | refused r =>
      exact ⟨1, Nat.succ_le_succ (Nat.zero_le _), by rw [runSteps_one, copy, refRun, h]⟩

/-- An operand byte that is the byte at the cursor is what a read of `CIN` there answers. -/
theorem operandByte_eq_readCin (s : State) : operandByte s (s.cin.read s.c) = readCin s s.c := rfl

/-- A copy step of a literal run that goes on has moved the cursor by one and left `CIN`. -/
theorem litCopy_goesOn {src : Option Byte} {s t : State} (h : litCopy src s = .next t)
    (more : t.dphase = .LITCOPY) : t.c = s.c + 1 ∧ t.cin = s.cin := by
  obtain ⟨-, rfl⟩ | ⟨-, -, rfl⟩ | ⟨b, -, -, -, rfl⟩ := litCopy_next.1 h
  · cases more
  · cases more
  · exact ⟨rfl, rfl⟩

/-- The copy loop of a literal run over the bytes of `CIN` at the cursor is that many small steps, or fewer
where it ends before. -/
theorem litRun_eq_runSteps (count : Nat) {s : State} (hp : s.pphase = .P_DECODE)
    (hd : s.dphase = .LITCOPY) :
    ∃ m ≤ count, runSteps microStep m s = litRun ((List.range' s.c count).map s.cin.read) s := by
  induction count generalizing s with
  | zero => exact ⟨0, le_refl 0, rfl⟩
  | succ count ih =>
    have copy := microStep_litCopy hp hd
    rw [← operandByte_eq_readCin] at copy
    rw [List.range'_succ, List.map_cons, litRun]
    cases h : litCopy (operandByte s (s.cin.read s.c)) s with
    | next t =>
      rw [h] at copy
      by_cases more : t.dphase = .LITCOPY
      · obtain ⟨hc, hcin⟩ := litCopy_goesOn h more
        have move := decoderMove_of_microStep hp (by simp [hd]) copy
        obtain ⟨m, le, run⟩ := ih (move.pphase_eq.trans hp) more
        refine ⟨m + 1, Nat.succ_le_succ le, ?_⟩
        rw [runSteps_succ copy, run, hc, hcin]
        exact (if_pos more).symm
      · refine ⟨1, Nat.succ_le_succ (Nat.zero_le _), ?_⟩
        rw [runSteps_one, copy]
        exact (if_neg more).symm
    | fault r => exact ⟨1, Nat.succ_le_succ (Nat.zero_le _), by rw [runSteps_one, copy, h]⟩
    | refused r => exact ⟨1, Nat.succ_le_succ (Nat.zero_le _), by rw [runSteps_one, copy, h]⟩

/-- The rest of a back-reference run over the length byte at the cursor is the small step for that byte and
those of the copy loop. -/
theorem refRest_eq_runSteps {s : State} (hp : s.pphase = .P_DECODE) (hd : s.dphase = .REFLEN) :
    ∃ m ≤ 257, runSteps microStep m s = refRest (s.cin.read s.c) s := by
  have length := microStep_refLen hp hd
  rw [refRest, operandByte_eq_readCin]
  cases read : readCin s s.c with
  | none => rw [read] at length; exact ⟨1, by omega, (runSteps_one _ _).trans length⟩
  | some b =>
    rw [read] at length
    obtain ⟨m, le, run⟩ := refRun_eq_runSteps (b.toNat + 1) (s := refLen (some b) s) hp rfl
    have := b.isLt
    exact ⟨m + 1, by omega, (runSteps_succ length m).trans run⟩

/-- The bytes of the literal run at the cursor, after its control byte. -/
def literalBytes (s : State) : List Byte :=
  (List.range' (s.c + 1) (litCount (s.cin.read s.c))).map s.cin.read

theorem literalBytes_length (s : State) : (literalBytes s).length = litCount (s.cin.read s.c) := by
  simp [literalBytes]

theorem runTop_literal {s : State} (goesOn : loopTest s = none) (stream : s.c < s.N.toNat)
    (hb : (s.cin.read s.c).toNat < 128) : runTop s = execLit (literalBytes s) s := by
  refine runTop_decoded (i := .lit (literalBytes s)) goesOn stream (rest := []) ?_
  rw [decode_runWindow, if_neg (by omega), literalBytes, List.range'_eq_map_range, List.map_map]
  rfl

theorem runTop_reference {s : State} (goesOn : loopTest s = none) (stream : s.c < s.N.toNat)
    (hb : 128 ≤ (s.cin.read s.c).toNat) :
    runTop s = execRef (refDistance (s.cin.read s.c)) (refCount (s.cin.read (s.c + 1))) s := by
  refine runTop_decoded (i := .ref _ _) goesOn stream (rest := []) ?_
  rw [decode_runWindow, if_pos hb]

/-- A literal run from its fetch on is the small step of the fetch and those of the copy loop. -/
theorem execLit_eq_runSteps {s : State} (hp : s.pphase = .P_DECODE) (stream : s.c < s.N.toNat)
    (hb : (s.cin.read s.c).toNat < 128)
    (fetch : microStep s = .next (litEntry (fetched (s.cin.read s.c) s))) :
    ∃ m, 1 ≤ m ∧ m ≤ 258 ∧ runSteps microStep m s = execLit (literalBytes s) s := by
  obtain ⟨m, le, run⟩ := litRun_eq_runSteps (litCount (s.cin.read s.c))
    (s := litEntry (fetched (s.cin.read s.c) s)) hp rfl
  have le' : litCount (s.cin.read s.c) ≤ 128 := hb
  refine ⟨m + 1, Nat.le_add_left 1 m, by omega, ?_⟩
  rw [runSteps_succ fetch, run, execLit, literalBytes_length, litControl_litCount,
    operandByte_some.2 ⟨stream, rfl⟩]
  rfl

/-- A back-reference run from its fetch on is the small step of the fetch and those of its rest. -/
theorem execRef_eq_runSteps {s : State} (hp : s.pphase = .P_DECODE) (stream : s.c < s.N.toNat)
    (fetch : microStep s = .next (refEntry (fetched (s.cin.read s.c) s))) :
    ∃ m, 1 ≤ m ∧ m ≤ 258 ∧ runSteps microStep m s
      = execRef (refDistance (s.cin.read s.c)) (refCount (s.cin.read (s.c + 1))) s := by
  rw [execRef, refControl_refDistance, refLengthByte_refCount, operandByte_some.2 ⟨stream, rfl⟩]
  by_cases enters : (refEntry (fetched (s.cin.read s.c) s)).dphase = .REFLEN
  · simp only [if_pos enters]
    have reaches : distance (fetched (s.cin.read s.c) s) ≤ s.w := by
      by_contra short
      rw [refEntry_underflow (s := fetched _ s) (Nat.not_le.1 short)] at enters
      cases enters
    rw [refEntry_enter (s := fetched _ s) reaches] at fetch ⊢
    obtain ⟨m, le, run⟩ := refRest_eq_runSteps
      (s := { fetched (s.cin.read s.c) s with
              n := distance (fetched (s.cin.read s.c) s), dphase := .REFLEN }) hp rfl
    exact ⟨m + 1, Nat.le_add_left 1 m, by omega, (runSteps_succ fetch m).trans run⟩
  · refine ⟨1, le_refl 1, by omega, ?_⟩
    rw [runSteps_one, fetch]
    exact (if_neg enters).symm

/-- Settles O25: a stop is one small step, and each run is its fetch followed by the small steps of its copy
loop. -/
theorem runStepIsTheSmallStepsInOrder : Obligations.RunStepIsTheSmallStepsInOrder := by
  intro s hp hd
  have micro := microStep_top hp hd
  rw [step_top hp hd]
  have stops {why : Cause} (small : microTop s = .next (raiseStop why s))
      (whole : runTop s = .next (raiseStop why s)) :
      ∃ m, 1 ≤ m ∧ m ≤ 258 ∧ runSteps microStep m s = runTop s :=
    ⟨1, le_refl 1, by omega, by rw [runSteps_one, micro, small, whole]⟩
  cases goesOn : loopTest s with
  | some why => exact stops (microTop_stop goesOn) (runTop_stop goesOn)
  | none =>
    rcases Nat.lt_or_ge s.c s.N.toNat with stream | ends
    · rw [microTop_fetch goesOn (readCin_some.2 ⟨stream, rfl⟩)] at micro
      by_cases hb : 128 ≤ (s.cin.read s.c).toNat
      · rw [if_pos ((sext8_neg _).2 hb)] at micro
        rw [runTop_reference goesOn stream hb]
        exact execRef_eq_runSteps hp stream micro
      · rw [if_neg (mt (sext8_neg _).1 hb)] at micro
        rw [runTop_literal goesOn stream (Nat.not_le.1 hb)]
        exact execLit_eq_runSteps hp stream (Nat.not_le.1 hb) micro
    · exact stops (microTop_overrun goesOn ends) (runTop_overrun goesOn ends)

/-- What every small step keeps, a step of either size keeps. -/
theorem keeps_of_microStep {P : State → Prop} (keeps : ∀ s t, P s → microStep s = .next t → P t)
    {s t : State} (hs : P s) (h : step s = .next t ∨ microStep s = .next t) : P t := by
  rcases h with whole | small
  · by_cases head : s.pphase = .P_DECODE ∧ s.dphase = .TOP
    · obtain ⟨m, -, -, run⟩ := runStepIsTheSmallStepsInOrder s head.1 head.2
      exact runSteps_keeps keeps hs (run.trans whole)
    · exact keeps s t hs ((microStep_eq_step head).trans whole)
  · exact keeps s t hs small

end Sys2Proof.Machine
end

section
/-! PROOFS. The step of each phase changes only what its agent owns, and the phases follow each other in
order (44_pipeline.md R160; 60_exceptions.md R192, R193). -/

namespace Sys2Proof.Machine

/-! ### The moves of step 3 -/

/-- What one step does in step 3 of the pipeline, with the conditions under which it does it. -/
inductive CheckMove (s : State) : State → Prop where
  /-- CRC_START (R141) -/
  | start (hc : s.cphase = .C_IDLE) : CheckMove s (crcStart s)
  /-- CRC_FINAL (R145) -/
  | final (hc : s.cphase = .C_LOAD) (all : s.p = s.cfg.L.toNat) : CheckMove s (crcFinal s)
  /-- the next data byte (R142) -/
  | load (hc : s.cphase = .C_LOAD) (more : s.p < s.cfg.L.toNat) :
      CheckMove s { s with rem := s.out.read s.p, j := 0, cphase := .C_BIT }
  /-- one bit (R143) -/
  | bit (hc : s.cphase = .C_BIT) (more : s.j < 7) : CheckMove s (bitDone s)
  /-- the eighth bit (R143, R144) -/
  | lastBit (hc : s.cphase = .C_BIT) (last : s.j = 7) : CheckMove s (crcNext (bitDone s))
  /-- the checksum is the expected one (R163) -/
  | equal (hc : s.cphase = .C_DONE) (hcrc : s.crc = s.cfg.CRC_EXPECTED) :
      CheckMove s { s with crcOk := true, pphase := .P_PATCH }
  /-- the checksum is another one (R164) -/
  | mismatch (hc : s.cphase = .C_DONE) (hcrc : s.crc ≠ s.cfg.CRC_EXPECTED) :
      CheckMove s (failRun .CHECKSUM_MISMATCH { s with crcOk := false })

theorem checkMove_of_checkStep {s t : State} (h : checkStep s = .next t) : CheckMove s t := by
  rw [checkStep] at h
  cases hc : s.cphase with
  | C_IDLE => rw [hc] at h; cases h; exact .start hc
  | C_LOAD =>
    rw [hc] at h
    obtain ⟨all, rfl⟩ | ⟨more, rfl⟩ := crcLoad_next.1 h
    · exact .final hc all
    · exact .load hc more
  | C_BIT =>
    rw [hc] at h
    obtain ⟨last, rfl⟩ | ⟨more, rfl⟩ := crcBit_next.1 h
    · exact .lastBit hc last
    · exact .bit hc more
  | C_DONE =>
    rw [hc] at h
    obtain ⟨hcrc, h'⟩ | ⟨hcrc, h'⟩ := pipeCheck_cases s
    · rw [h'] at h; cases h; exact .equal hc hcrc
    · rw [h'] at h; cases h; exact .mismatch hc hcrc

/-! ### The frame of each phase -/

/-- In step 1 the core takes the file, and the decoder and `OUT` take their reset values (R161, R162). -/
theorem pipeLoad_frame {s t : State} (h : pipeLoad s = .next t) :
    t = { s with
          cin := t.cin, N := t.N, hostFile := t.hostFile, out := t.out, c := t.c, w := t.w
          i := t.i, v := t.v, n := t.n, len := t.len, k := t.k, dphase := t.dphase
          cause := t.cause, pphase := t.pphase, result := t.result } := by
  obtain ⟨-, h'⟩ | ⟨-, h'⟩ | ⟨file, -, -, h'⟩ | ⟨-, h'⟩ := pipeLoad_cases s <;> cases h.symm.trans h' <;>
    rfl

theorem CheckMove.frame {s t : State} (h : CheckMove s t) :
    t = { s with
          acc := t.acc, rem := t.rem, j := t.j, p := t.p, cphase := t.cphase, crc := t.crc
          crcOk := t.crcOk, pphase := t.pphase, result := t.result } := by
  cases h <;> rfl

theorem pipePatch_frame (s : State) :
    pipePatch s = { s with
      out := (pipePatch s).out, patchReq := (pipePatch s).patchReq, hostPatch := (pipePatch s).hostPatch
      pphase := (pipePatch s).pphase, result := (pipePatch s).result } := by
  obtain ⟨-, h⟩ | ⟨-, h⟩ | ⟨-, -, h⟩ | ⟨-, -, h⟩ := pipePatch_cases s <;> rw [h] <;> rfl

/-- Step 4 writes `OUT[0 .. 15]` at most (R166). -/
theorem pipePatch_framed_out {s : State} (hout : s.out.wf = true) {a : Nat} (beyond : 16 ≤ a) :
    (pipePatch s).out.read a = s.out.read a := by
  obtain ⟨-, h⟩ | ⟨-, h⟩ | ⟨-, -, h⟩ | ⟨-, -, h⟩ := pipePatch_cases s <;> rw [h]
  · rfl
  · rfl
  · exact read_patchHeader_beyond (s := samplePatch true s) hout beyond

theorem pipeWrite_frame (s : State) :
    pipeWrite s = { s with
      pphase := (pipeWrite s).pphase, result := (pipeWrite s).result
      hostWrite := (pipeWrite s).hostWrite } := by
  obtain ⟨-, h⟩ | ⟨-, h⟩ | ⟨-, h⟩ := pipeWrite_cases s <;> rw [h] <;> rfl

/-! ### The frame of step 2 -/

/-- What a step in step 2 of the pipeline may change: the registers of the decoder, how the step of the
pipeline ended, and `OUT` between the write cursors. -/
def DecodeFrame (s t : State) : Prop :=
  t = { s with
        out := t.out, c := t.c, w := t.w, i := t.i, v := t.v, n := t.n, len := t.len
        k := t.k, dphase := t.dphase, cause := t.cause, pphase := t.pphase
        result := t.result } ∧
  ∀ a, a < s.w ∨ t.w ≤ a → t.out.read a = s.out.read a

theorem decodeFrame_raiseStop (why : Cause) (s : State) : DecodeFrame s (raiseStop why s) :=
  ⟨rfl, fun _ _ => rfl⟩

theorem DecoderMove.decodeFrame {s t : State} (h : DecoderMove s t) (hout : s.out.wf = true) :
    DecodeFrame s t :=
  ⟨by rw [h.frame], fun _ => h.framed_out hout⟩

theorem pipeDecoded_decodeFrame {s t : State} (h : pipeDecoded s = .next t) : DecodeFrame s t := by
  obtain ⟨-, rfl⟩ | ⟨-, -, rfl⟩ := pipeDecoded_next.1 h <;> exact ⟨rfl, fun _ _ => rfl⟩

/-- What a step at the head of the loop leaves: the frame of a stop, or of a whole run. -/
theorem runTop_decodeFrame {s t : State} (hout : s.out.wf = true) (h : runTop s = .next t) :
    DecodeFrame s t ∧ t.pphase = s.pphase := by
  cases goesOn : loopTest s with
  | some why => cases h.symm.trans (runTop_stop goesOn); exact ⟨decodeFrame_raiseStop _ _, rfl⟩
  | none =>
    rcases Nat.lt_or_ge s.c s.N.toNat with stream | ends
    · obtain ⟨i, hwf, decoded⟩ := runWindow_decodes s
      rw [runTop_decoded goesOn stream decoded] at h
      obtain ⟨frame, -, -, -, framed, -⟩ := runsChangeOnlyDecoderState i s t hwf hout h
      exact ⟨⟨by rw [frame], framed⟩, by rw [frame]⟩
    · cases h.symm.trans (runTop_overrun goesOn ends); exact ⟨decodeFrame_raiseStop _ _, rfl⟩

theorem step_decodeFrame {s t : State} (hp : s.pphase = .P_DECODE) (hout : s.out.wf = true)
    (h : step s = .next t) : DecodeFrame s t := by
  by_cases head : s.dphase = .TOP
  · rw [step_top hp head] at h; exact (runTop_decodeFrame hout h).1
  · by_cases halted : s.dphase = .HALT
    · rw [step_halt hp halted] at h; exact pipeDecoded_decodeFrame h
    · rw [← microStep_eq_step (by simp [head])] at h
      exact (decoderMove_of_microStep hp halted h).decodeFrame hout

/-- Settles O44: the phase names the agent that acts, whose frame says what it owns. -/
theorem eachPhaseWritesOnlyWhatItOwns : Obligations.EachPhaseWritesOnlyWhatItOwns := by
  intro s t hout h
  cases hp : s.pphase with
  | P_IDLE => cases h.symm.trans (step_idle hp); simp [pipeBegin]
  | P_LOAD =>
    rw [step_load hp] at h
    have frame := pipeLoad_frame h
    exact ⟨by rw [frame], nofun, fun _ => frame, nofun, nofun, nofun, nofun, by simp⟩
  | P_DECODE =>
    have frame := step_decodeFrame hp hout h
    exact ⟨by rw [frame.1], nofun, nofun, fun _ => frame, nofun, nofun, nofun, by simp⟩
  | P_CHECK =>
    rw [step_check hp] at h
    have frame := (checkMove_of_checkStep h).frame
    exact ⟨by rw [frame], nofun, nofun, nofun, fun _ => frame, nofun, nofun, by simp⟩
  | P_PATCH =>
    cases h.symm.trans (step_patch hp)
    have frame := pipePatch_frame s
    exact ⟨by rw [frame], nofun, nofun, nofun, nofun,
      fun _ => ⟨frame, fun _ => pipePatch_framed_out hout⟩, nofun, by simp⟩
  | P_WRITE =>
    cases h.symm.trans (step_write hp)
    have frame := pipeWrite_frame s
    exact ⟨by rw [frame], nofun, nofun, nofun, nofun, nofun, fun _ => frame, by simp⟩
  | P_DONE => cases h.symm.trans (step_ended (.inl hp)); simp
  | P_FAILED => cases h.symm.trans (step_ended (.inr hp)); simp

end Sys2Proof.Machine
end

section
/-! PROOFS. The order of the phases, and that stops are not resumed (44_pipeline.md R160; 60_exceptions.md
R192). -/

namespace Sys2Proof.Machine

/-! ### The cases of the two runs, for any `OUT` -/

theorem execLit_cases {bytes : List Byte} (hwf : (Instr.lit bytes).wellFormed = true) (s : State) :
    (s.N.toNat ≤ s.c ∧ execLit bytes s = .next (raiseStop .OVERRUN s)) ∨
    ∃ done, s.c < s.N.toNat ∧
      done = min bytes.length (min (s.cfg.L.toNat - s.w) (s.N.toNat - (s.c + 1))) ∧
      execLit bytes s = .next
        { s with
          out := s.out.writeBytes s.w (bytes.take done), c := s.c + 1 + done, w := s.w + done
          i := s.i + 1, v := litControl bytes.length, k := bytes.length - done
          dphase := if done = bytes.length then .TOP else .HALT
          cause := if done = bytes.length then s.cause
            else if s.cfg.L.toNat - s.w ≤ s.N.toNat - (s.c + 1) then .FULL else .OVERRUN } := by
  rcases Nat.lt_or_ge s.c s.N.toNat with stream | ends
  · exact .inr ⟨_, stream, rfl, execLit_eq bytes s hwf stream rfl⟩
  · exact .inl ⟨ends, execLit_overrun bytes ends⟩

theorem execRef_cases {n count : Nat} (hwf : (Instr.ref n count).wellFormed = true) (s : State) :
    (s.N.toNat ≤ s.c ∧ execRef n count s = .next (raiseStop .OVERRUN s)) ∨
    (s.c < s.N.toNat ∧ s.w < n ∧
      execRef n count s = .next (raiseStop .UNDERFLOW { fetched (refControl n) s with n := n })) ∨
    (s.c + 1 = s.N.toNat ∧ n ≤ s.w ∧
      execRef n count s = .next
        (raiseStop .OVERRUN { fetched (refControl n) s with n := n, dphase := .REFLEN })) ∨
    ∃ done, s.c + 1 < s.N.toNat ∧ n ≤ s.w ∧ done = min count (s.cfg.L.toNat - s.w) ∧
      execRef n count s = .next
        { s with
          out := copyBack n done s.w s.out, c := s.c + 2, w := s.w + done, i := s.i + 1
          v := refControl n, n := n, len := refLengthByte count, k := count - done
          dphase := if done = count then .TOP else .HALT
          cause := if done = count then s.cause else .FULL } := by
  obtain ⟨⟨n_pos, n_le⟩, count_pos, count_le⟩ := wellFormed_ref.1 hwf
  rcases Nat.lt_or_ge s.c s.N.toNat with stream | ends
  · rcases Nat.lt_or_ge s.w n with short | reaches
    · exact .inr (.inl ⟨stream, short, execRef_underflow count n_pos n_le stream short⟩)
    · rcases Nat.lt_or_ge (s.c + 1) s.N.toNat with more | last
      · exact .inr (.inr (.inr ⟨_, more, reaches, rfl,
          execRef_eq n_pos n_le count_pos count_le more reaches rfl⟩))
      · have last' : s.c + 1 = s.N.toNat := by omega
        exact .inr (.inr (.inl ⟨last', reaches, execRef_noLength count n_pos n_le last' reaches⟩))
  · exact .inl ⟨ends, execRef_overrun n count ends⟩

/-- A run stays in step 2 of the pipeline. -/
theorem exec_pphase {i : Instr} {s t : State} (hwf : i.wellFormed = true) (h : exec i s = .next t) :
    t.pphase = s.pphase := by
  cases i with
  | lit bytes =>
    obtain ⟨-, h'⟩ | ⟨done, -, -, h'⟩ := execLit_cases hwf s <;> cases h.symm.trans h' <;> rfl
  | ref n count =>
    obtain ⟨-, h'⟩ | ⟨-, -, h'⟩ | ⟨-, -, h'⟩ | ⟨done, -, -, -, h'⟩ := execRef_cases hwf s <;>
      cases h.symm.trans h' <;> rfl

theorem runTop_pphase {s t : State} (h : runTop s = .next t) : t.pphase = s.pphase := by
  cases goesOn : loopTest s with
  | some why => cases h.symm.trans (runTop_stop goesOn); rfl
  | none =>
    rcases Nat.lt_or_ge s.c s.N.toNat with stream | ends
    · obtain ⟨i, hwf, decoded⟩ := runWindow_decodes s
      rw [runTop_decoded goesOn stream decoded] at h
      exact exec_pphase hwf h
    · cases h.symm.trans (runTop_overrun goesOn ends); rfl

/-- Step 2 of the pipeline is left only once the decoder has halted (R162). -/
theorem step_pphase_of_running {s t : State} (hp : s.pphase = .P_DECODE) (running : s.dphase ≠ .HALT)
    (h : step s = .next t) : t.pphase = s.pphase := by
  by_cases head : s.dphase = .TOP
  · rw [step_top hp head] at h; exact runTop_pphase h
  · rw [← microStep_eq_step (by simp [head])] at h
    exact (decoderMove_of_microStep hp running h).pphase_eq

/-! ### The order of the phases -/

/-- Settles O43: the cases of the operation that each phase performs. -/
theorem pipelineStepsKeepTheirOrder : Obligations.PipelineStepsKeepTheirOrder := by
  intro s t h
  cases hp : s.pphase with
  | P_IDLE => cases h.symm.trans (step_idle hp); simp
  | P_LOAD =>
    rw [step_load hp] at h
    obtain ⟨-, h'⟩ | ⟨hf, h'⟩ | ⟨file, hf, -, h'⟩ | ⟨-, h'⟩ := pipeLoad_cases s <;> cases h.symm.trans h'
    · exact .inl hp
    · simp [hf]
    · simp [hf]
  | P_DECODE =>
    by_cases halted : s.dphase = .HALT
    · rw [step_halt hp halted] at h
      obtain ⟨-, rfl⟩ | ⟨-, -, rfl⟩ := pipeDecoded_next.1 h <;> simp [halted]
    · exact .inl ((step_pphase_of_running hp halted h).trans hp)
  | P_CHECK =>
    rw [step_check hp] at h
    cases checkMove_of_checkStep h with
    | start | final | load | bit | lastBit => exact .inl hp
    | equal hc | mismatch hc => simp [hc]
  | P_PATCH =>
    cases h.symm.trans (step_patch hp)
    obtain ⟨-, h'⟩ | ⟨answer, h'⟩ | ⟨answer, -, h'⟩ | ⟨answer, -, h'⟩ := pipePatch_cases s <;> rw [h']
    · exact .inl hp
    all_goals simp [answer]
  | P_WRITE =>
    cases h.symm.trans (step_write hp)
    obtain ⟨-, h'⟩ | ⟨report, h'⟩ | ⟨report, h'⟩ := pipeWrite_cases s <;> rw [h']
    · exact .inl hp
    all_goals simp [report]
  | P_DONE => cases h.symm.trans (step_ended (.inl hp)); exact .inl hp
  | P_FAILED => cases h.symm.trans (step_ended (.inr hp)); exact .inl hp

/-! ### Stops and ended runs -/

/-- Outside step 1 a halted decoder is left as it is, whichever agent acts. -/
theorem step_of_halted {s t : State} (hd : s.dphase = .HALT) (notLoad : s.pphase ≠ .P_LOAD)
    (h : step s = .next t) :
    t.dphase = .HALT ∧ t.cause = s.cause ∧ t.c = s.c ∧ t.w = s.w ∧ t.i = s.i := by
  cases hp : s.pphase with
  | P_IDLE => cases h.symm.trans (step_idle hp); exact ⟨hd, rfl, rfl, rfl, rfl⟩
  | P_LOAD => exact absurd hp notLoad
  | P_DECODE =>
    rw [step_halt hp hd] at h
    obtain ⟨-, rfl⟩ | ⟨-, -, rfl⟩ := pipeDecoded_next.1 h <;> exact ⟨hd, rfl, rfl, rfl, rfl⟩
  | P_CHECK =>
    rw [step_check hp] at h
    rw [(checkMove_of_checkStep h).frame]
    exact ⟨hd, rfl, rfl, rfl, rfl⟩
  | P_PATCH =>
    cases h.symm.trans (step_patch hp)
    rw [pipePatch_frame]
    exact ⟨hd, rfl, rfl, rfl, rfl⟩
  | P_WRITE =>
    cases h.symm.trans (step_write hp)
    rw [pipeWrite_frame]
    exact ⟨hd, rfl, rfl, rfl, rfl⟩
  | P_DONE => cases h.symm.trans (step_ended (.inl hp)); exact ⟨hd, rfl, rfl, rfl, rfl⟩
  | P_FAILED => cases h.symm.trans (step_ended (.inr hp)); exact ⟨hd, rfl, rfl, rfl, rfl⟩

/-- The only move of the host after the end of a run is reset (R192). -/
theorem hostMove_of_ended {move : HostMove} {s t : State}
    (ended : s.pphase = .P_DONE ∨ s.pphase = .P_FAILED) (h : hostMove move s = some t) :
    t = applyReset s := by
  cases move with
  | reset => exact hostMove_reset.1 h
  | configure cfg => have hp := (hostMove_configure.1 h).1; simp [hp] at ended
  | supplyFile answer => rcases (hostMove_supplyFile.1 h).1 with hp | hp <;> simp [hp] at ended
  | answerPatch yes => have hp := (hostMove_answerPatch.1 h).1; simp [hp] at ended
  | reportWrite ok => have hp := (hostMove_reportWrite.1 h).1; simp [hp] at ended

/-- Settles O14: an ended run steps to itself, a halted decoder is in no other agent's frame, and the host's
moves but reset need another phase. -/
theorem stopsAreNotResumed : Obligations.StopsAreNotResumed := by
  refine fun s => ⟨fun t ended h => ?ended, fun t => step_of_halted, fun move t => hostMove_of_ended⟩
  cases h.symm.trans (step_ended ended)
  exact ⟨rfl, rfl, rfl⟩

end Sys2Proof.Machine
end

section
/-! PROOFS. Bytes of the stream beyond the cursor have no influence (40_decoder_loop.md section 4). -/

namespace Sys2Proof.Machine

/-- The state with another Compressed Buffer of the same length. -/
def withStream (other : Memory) (s : State) : State := { s with cin := other }

theorem withStream_c (other : Memory) (s : State) : (withStream other s).c = s.c := rfl

/-- The literal bytes of a run depend on the bytes they are, as far as they are taken. -/
theorem literalBytes_take {s : State} {other : Memory} {done : Nat}
    (control : other.read s.c = s.cin.read s.c)
    (agree : ∀ a, a < s.c + 1 + done → other.read a = s.cin.read a) :
    (literalBytes (withStream other s)).take done = (literalBytes s).take done := by
  have count : litCount ((withStream other s).cin.read (withStream other s).c)
      = litCount (s.cin.read s.c) := congrArg litCount control
  rw [literalBytes, literalBytes, count, ← List.map_take, ← List.map_take]
  refine List.map_congr_left fun a ha => agree a ?_
  obtain ⟨index, below, rfl⟩ := List.mem_take_iff_getElem.1 ha
  rw [List.getElem_range', withStream_c]
  omega

/-- A back-reference run reads its control byte, and its length byte only where the cursor passes it. -/
theorem reference_withStream {s t : State} {other : Memory} (goesOn : loopTest s = none)
    (stream : s.c < s.N.toNat) (hb : 128 ≤ (s.cin.read s.c).toNat) (h : runTop s = .next t)
    (agree : ∀ a, a < t.c → other.read a = s.cin.read a) :
    runTop (withStream other s) = .next (withStream other t) := by
  have hwf := wellFormed_ref_of_bytes hb (s.cin.read (s.c + 1))
  have run (control : other.read s.c = s.cin.read s.c) : runTop (withStream other s)
      = execRef (refDistance (s.cin.read s.c)) (refCount (other.read (s.c + 1)))
          (withStream other s) := by
    rw [← control]
    exact runTop_reference (s := withStream other s) goesOn stream (by rw [← control] at hb; exact hb)
  obtain ⟨⟨n_pos, n_le⟩, count_pos, count_le⟩ := wellFormed_ref.1 hwf
  rw [runTop_reference goesOn stream hb] at h
  obtain ⟨ends, -⟩ | ⟨-, short, h'⟩ | ⟨last, reaches, h'⟩ | ⟨done, more, reaches, hdone, h'⟩ :=
    execRef_cases hwf s
  · omega
  · cases h.symm.trans h'
    rw [run (agree s.c (Nat.lt_succ_self s.c))]
    exact execRef_underflow (s := withStream other s) _ n_pos n_le stream short
  · cases h.symm.trans h'
    rw [run (agree s.c (Nat.lt_succ_self s.c))]
    exact execRef_noLength (s := withStream other s) _ n_pos n_le last reaches
  · cases h.symm.trans h'
    rw [run (agree s.c (Nat.lt_add_of_pos_right Nat.two_pos)),
      agree (s.c + 1) (Nat.lt_succ_self (s.c + 1))]
    exact execRef_eq (s := withStream other s) n_pos n_le count_pos count_le more reaches hdone

/-- A literal run reads its control byte and the literal bytes it copies. -/
theorem literal_withStream {s t : State} {other : Memory} (goesOn : loopTest s = none)
    (stream : s.c < s.N.toNat) (hb : (s.cin.read s.c).toNat < 128) (h : runTop s = .next t)
    (agree : ∀ a, a < t.c → other.read a = s.cin.read a) :
    runTop (withStream other s) = .next (withStream other t) := by
  rw [runTop_literal goesOn stream hb] at h
  obtain ⟨ends, -⟩ | ⟨done, -, hdone, h'⟩ :=
    execLit_cases (wellFormed_lit_of_count hb (literalBytes_length s)) s
  · omega
  · cases h.symm.trans h'
    simp only at agree
    have control : other.read s.c = s.cin.read s.c := agree s.c (by omega)
    have hb' : ((withStream other s).cin.read (withStream other s).c).toNat < 128 := by
      rw [← control] at hb; exact hb
    have length : (literalBytes (withStream other s)).length = (literalBytes s).length := by
      rw [literalBytes_length, literalBytes_length]
      exact congrArg litCount control
    rw [runTop_literal (s := withStream other s) goesOn stream hb',
      execLit_eq _ (withStream other s) (wellFormed_lit_of_count hb' (literalBytes_length _)) stream
        (done := done) (by rw [length]; exact hdone),
      literalBytes_take control agree, length]
    rfl

/-- A whole-run step reads no byte at or beyond the cursor it leaves. -/
theorem runTop_withStream {s t : State} {other : Memory} (h : runTop s = .next t)
    (agree : ∀ a, a < t.c → other.read a = s.cin.read a) :
    runTop (withStream other s) = .next (withStream other t) := by
  cases goesOn : loopTest s with
  | some why =>
    cases h.symm.trans (runTop_stop goesOn)
    exact runTop_stop (s := withStream other s) goesOn
  | none =>
    rcases Nat.lt_or_ge s.c s.N.toNat with stream | ends
    · by_cases hb : 128 ≤ (s.cin.read s.c).toNat
      · exact reference_withStream goesOn stream hb h agree
      · exact literal_withStream goesOn stream (Nat.not_le.1 hb) h agree
    · cases h.symm.trans (runTop_overrun goesOn ends)
      exact runTop_overrun (s := withStream other s) goesOn ends

theorem readCin_withStream {s : State} {other : Memory} {b : Byte} (read : readCin s s.c = some b)
    (agree : ∀ a, a < s.c + 1 → other.read a = s.cin.read a) :
    readCin (withStream other s) (withStream other s).c = some b := by
  obtain ⟨stream, rfl⟩ := readCin_some.1 read
  exact readCin_some.2 ⟨stream, agree s.c (Nat.lt_succ_self s.c)⟩

theorem readCin_withStream_none {s : State} {other : Memory} (read : readCin s s.c = none) :
    readCin (withStream other s) (withStream other s).c = none :=
  readCin_none.2 (readCin_none.1 read : s.N.toNat ≤ s.c)

/-- Settles O29: a stop does not depend on the byte it does not read, a byte that is read lies below the new
cursor, and the run at the head of the loop takes as many bytes as the cursor moves. -/
theorem unreadStreamBytesDoNotMatter : Obligations.UnreadStreamBytesDoNotMatter := by
  intro s t other hp h agree
  change step (withStream other s) = .next (withStream other t)
  have hp' : (withStream other s).pphase = .P_DECODE := hp
  cases hd : s.dphase with
  | IDLE =>
    cases h.symm.trans (startTurnsToTheLoop s hp hd)
    exact startTurnsToTheLoop (withStream other s) hp hd
  | TOP =>
    rw [step_top hp hd] at h
    rw [step_top hp' hd]
    exact runTop_withStream h agree
  | REFLEN =>
    rw [step_refLen hp hd] at h
    rw [step_refLen hp' hd]
    cases read : readCin s s.c with
    | none =>
      rw [read] at h; cases h
      rw [readCin_withStream_none read]
      rfl
    | some b =>
      rw [read] at h; cases h
      rw [readCin_withStream read agree]
      rfl
  | REFCOPY =>
    rw [step_refCopy hp hd] at h
    rw [step_refCopy hp' hd]
    obtain ⟨full, rfl⟩ | ⟨room, reaches, k_ne, rfl⟩ := refCopy_next.1 h
    · exact refCopy_next.2 (.inl ⟨full, rfl⟩)
    · exact refCopy_next.2 (.inr ⟨room, reaches, k_ne, rfl⟩)
  | LITCOPY =>
    rw [step_litCopy hp hd] at h
    rw [step_litCopy hp' hd]
    obtain ⟨full, rfl⟩ | ⟨room, read, rfl⟩ | ⟨b, room, read, k_ne, rfl⟩ := litCopy_next.1 h
    · exact litCopy_next.2 (.inl ⟨full, rfl⟩)
    · exact litCopy_next.2 (.inr (.inl ⟨room, readCin_withStream_none read, rfl⟩))
    · exact litCopy_next.2 (.inr (.inr ⟨b, room, readCin_withStream read agree, k_ne, rfl⟩))
  | HALT =>
    rw [step_halt hp hd] at h
    rw [step_halt hp' hd]
    obtain ⟨hcause, rfl⟩ | ⟨notOverrun, notNone, rfl⟩ := pipeDecoded_next.1 h
    · exact pipeDecoded_next.2 (.inl ⟨hcause, rfl⟩)
    · exact pipeDecoded_next.2 (.inr ⟨notOverrun, notNone, rfl⟩)

end Sys2Proof.Machine
end

section
/-! PROOFS. Every decode stops within the bound of the spec (40_decoder_loop.md R108). -/

namespace Sys2Proof.Machine

/-- How many steps of R12 a phase can still ask for beside the copied bytes and the runs not yet begun. -/
def phaseWeight : DPhase → Nat
  | .IDLE => 2
  | .TOP => 1
  | .REFLEN => 2
  | .REFCOPY => 1
  | .LITCOPY => 1
  | .HALT => 0

/-- A bound on the steps of R12 before the decoder halts: two for each run not yet begun, one for each byte
not yet written. -/
def stepsLeft (s : State) : Nat :=
  2 * (min s.N.toNat s.cfg.CAP.toNat - s.i) + (s.cfg.L.toNat - s.w) + phaseWeight s.dphase

/-- Where a run is begun fewer runs than `min(N, CAP)` have been begun, under either reading of the cap. -/
theorem iterations_lt {s : State} (hi : s.i ≤ s.c) (below : capHit s = false) (stream : s.c < s.N.toNat) :
    s.i < min s.N.toNat s.cfg.CAP.toNat := by
  obtain ⟨cursor, iter⟩ := capHit_false.1 below
  cases kind : s.cfg.CAP_KIND with
  | CURSOR => have := cursor kind; omega
  | ITER => have := iter kind; omega

/-- Every run takes a byte of the stream (R29). -/
theorem DecoderMove.iterations_le {s t : State} (h : DecoderMove s t) (hi : s.i ≤ s.c) : t.i ≤ t.c := by
  cases h
  case literal | underflow | reference => exact Nat.succ_le_succ hi
  case lengthByte | litByte => exact Nat.le_succ_of_le hi
  all_goals exact hi

/-- A copied byte leaves the weight of the phase, whether it ends the run or not. -/
theorem phaseWeight_byteDone {s : State} (hd : phaseWeight s.dphase = 1) :
    phaseWeight (byteDone s).dphase = 1 := by
  rw [byteDone_dphase]
  split
  · rfl
  · exact hd

/-- Every move lowers the bound. -/
theorem DecoderMove.stepsLeft_lt {s t : State} (h : DecoderMove s t) (hi : s.i ≤ s.c) :
    stepsLeft t < stepsLeft s := by
  cases h with
  | start hd => simp [stepsLeft, phaseWeight, hd]
  | full hd => rcases hd with hd | hd | hd <;> simp [stepsLeft, phaseWeight, hd]
  | cap hd | noControl hd | noLength hd | noLiteral hd => simp [stepsLeft, phaseWeight, hd]
  | literal hd _ below stream | underflow hd _ below stream | reference hd _ below stream =>
    have := iterations_lt hi below stream
    simp only [stepsLeft, phaseWeight, hd, litEntry_N, litEntry_cfg, litEntry_i, litEntry_w,
      litEntry_dphase, raiseStop_N, raiseStop_cfg, raiseStop_i, raiseStop_w, raiseStop_dphase, fetched_N,
      fetched_cfg, fetched_i, fetched_w]
    omega
  | lengthByte hd => simp [stepsLeft, phaseWeight, hd]
  | refByte hd room | litByte hd room =>
    have weight : phaseWeight s.dphase = 1 := by rw [hd]; rfl
    have := phaseWeight_byteDone weight
    simp only [stepsLeft, byteDone_N, byteDone_cfg, byteDone_i, byteDone_w, byteDone_dphase] at this ⊢
    omega

/-- A decoder on its way: the enabling conditions of its step rules, and no more runs than bytes read. -/
structure Running (s : State) : Prop where
  phase : s.pphase = .P_DECODE
  enabled : Enabled s
  iterations : s.i ≤ s.c

/-- A move keeps the decoder on its way. -/
theorem DecoderMove.running {s t : State} (move : DecoderMove s t) (h : Running s) : Running t :=
  ⟨move.pphase_eq.trans h.phase, move.enabled h.enabled, move.iterations_le h.iterations⟩

/-- Until it halts a decoder on its way makes a step of R12, which lowers the bound. -/
theorem Running.descends {s : State} (h : Running s) (notHalted : s.dphase ≠ .HALT) :
    ∃ t, microStep s = .next t ∧ Running t ∧ stepsLeft t < stepsLeft s := by
  obtain ⟨t, ht, move⟩ := h.enabled.moves h.phase notHalted
  exact ⟨t, ht, move.running h, move.stepsLeft_lt h.iterations⟩

/-- Settles O26: at the start of a decode the bound that every move lowers is that of the spec. -/
theorem everyDecodeStopsInBoundedSteps : Obligations.EveryDecodeStopsInBoundedSteps := by
  intro s hp hd hc hw hi
  have start : Running s := ⟨hp, .of_outside (.inl hd), by omega⟩
  have bound : stepsLeft s = 2 * min s.N.toNat s.cfg.CAP.toNat + s.cfg.L.toNat + 2 := by
    simp [stepsLeft, phaseWeight, hd, hw, hi]
  obtain ⟨m, t, le, run, -, halted⟩ := runSteps_descent (fun _ => Running.descends) start
  exact ⟨m, t, bound ▸ le, run, halted⟩

end Sys2Proof.Machine
end

section
/-! PROOFS. The two readings of the cap in the big-step function (40_decoder_loop.md section 3). -/

namespace Sys2Proof.Machine

/-- The copy loop of a literal run moves the cursor on. -/
theorem bigLitCopy_c_le (L N : Nat) (cin : Nat → Byte) (count : Nat) (written : List Byte) (c : Nat) :
    c ≤ (bigLitCopy L N cin count written c).2.1 := by
  induction count generalizing written c with
  | zero => exact le_refl c
  | succ count ih =>
    rw [bigLitCopy]
    split
    · exact le_refl c
    · split
      · exact le_refl c
      · exact Nat.le_of_succ_le (ih _ _)

/-- With no more iterations than bytes read, a loop that does not stop with `CAP` under `CURSOR` makes the
same tests under `ITER`. -/
theorem bigLoop_iter_eq_cursor (cfg : Config) (N : Nat) (cin : Nat → Byte) (fuel : Nat)
    (written : List Byte) (c i : Nat) (hi : i ≤ c)
    (notCap : (bigLoop { cfg with CAP_KIND := .CURSOR } N cin fuel written c i).cause ≠ .CAP) :
    bigLoop { cfg with CAP_KIND := .ITER } N cin fuel written c i
      = bigLoop { cfg with CAP_KIND := .CURSOR } N cin fuel written c i := by
  induction fuel generalizing written c i with
  | zero => rfl
  | succ fuel ih =>
    rw [bigLoop] at notCap
    rw [bigLoop, bigLoop]
    simp only [bigCapHit, decide_eq_true_eq] at notCap ⊢
    by_cases full : cfg.L.toNat ≤ written.length
    · simp only [if_pos full]
    · simp only [if_neg full] at notCap ⊢
      by_cases cursor : cfg.CAP.toNat ≤ c
      · simp [cursor] at notCap
      · have iter : ¬ cfg.CAP.toNat ≤ i := by omega
        simp only [if_neg cursor, if_neg iter] at notCap ⊢
        split_ifs at notCap ⊢ with ends neg short noLength
        · rfl
        · rfl
        · rfl
        · split at notCap
          · rfl
          · exact ih _ _ _ (by omega) notCap
        · split at notCap
          case h_1 written' c' h =>
            have := bigLitCopy_c_le cfg.L.toNat N cin ((sext8 (cin c)).toNat + 1) written (c + 1)
            rw [h] at this
            exact ih _ _ _ (by simp only at this; omega) notCap
          case h_2 => rfl

/-- Settles O28: a decode begins with no iteration and no byte read. -/
theorem capReadingsAgreeBelowTheCap : Obligations.CapReadingsAgreeBelowTheCap :=
  fun cfg N cin => bigLoop_iter_eq_cursor cfg N cin (N + 1) [] 0 0 (le_refl 0)

end Sys2Proof.Machine
end

section
/-! PROOFS. The byte-at-a-time form of the CRC, and the checksum that the engine computes (43_crc32.md
sections 1 and 3). -/

namespace Sys2Proof.Machine

/-! ### The byte at a time -/

/-- One shift of the two registers as one word is one bit step, both halves taken together. -/
theorem shiftStep_xor (poly acc : Word) (data : Byte) :
    shiftStep poly (acc ^^^ data.zeroExtend 32)
      = (bitStep poly (acc, data)).1 ^^^ (bitStep poly (acc, data)).2.zeroExtend 32 := by
  have low : (acc ^^^ data.zeroExtend 32).getLsbD 0 = (acc.getLsbD 0 ^^ data.getLsbD 0) := by
    simp
  have shift : (acc ^^^ data.zeroExtend 32) >>> 1 = acc >>> 1 ^^^ (data >>> 1).zeroExtend 32 := by
    ext i hi
    simp [BitVec.getLsbD_setWidth]
  rw [shiftStep, low, shift, bitStep]
  split
  · rw [BitVec.xor_assoc, BitVec.xor_comm _ poly, ← BitVec.xor_assoc]
  · rfl

/-- Shifting the two registers as one word is taking the bits, both halves taken together. -/
theorem shiftStep_iterate (poly : Word) (m : Nat) (acc : Word) (data : Byte) :
    (shiftStep poly)^[m] (acc ^^^ data.zeroExtend 32)
      = (bitSteps poly m (acc, data)).1 ^^^ (bitSteps poly m (acc, data)).2.zeroExtend 32 := by
  induction m generalizing acc data with
  | zero => rfl
  | succ m ih => rw [Function.iterate_succ_apply, shiftStep_xor, ih, bitSteps]

/-- The bit steps shift the byte-remainder out. -/
theorem bitSteps_snd (poly : Word) (m : Nat) (acc : Word) (data : Byte) :
    (bitSteps poly m (acc, data)).2 = data >>> m := by
  induction m generalizing acc data with
  | zero => rw [bitSteps, BitVec.ushiftRight_zero]
  | succ m ih =>
    rw [bitSteps, bitStep, ih, ← BitVec.shiftRight_add, Nat.add_comm]

/-- After eight bits the byte-remainder is empty, so the one word is the accumulator. -/
theorem crcByteAtOnce_eq_crcByte (poly acc : Word) (data : Byte) :
    crcByteAtOnce poly acc data = crcByte poly acc data := by
  have empty : (bitSteps poly 8 (acc, data)).2 = 0 := by
    rw [bitSteps_snd]
    exact BitVec.ushiftRight_eq_zero (le_refl 8)
  rw [crcByteAtOnce, shiftStep_iterate, empty, crcByte]
  simp

/-- Settles O33: the two forms agree on every byte. -/
theorem byteAtATimeFormIsEquivalent : Obligations.ByteAtATimeFormIsEquivalent := by
  intro poly acc data
  rw [crcBytes, funext₂ (crcByteAtOnce_eq_crcByte poly)]

/-! ### The accumulator -/

theorem accumulated_load {s : State} (hc : s.cphase = .C_LOAD) :
    accumulated s ↔ s.acc = crcBytes s.cfg.POLY s.cfg.CRC_INIT ((image s).take s.p) := by
  rw [accumulated, hc]

theorem accumulated_bit {s : State} (hc : s.cphase = .C_BIT) :
    accumulated s ↔ (bitSteps s.cfg.POLY (8 - s.j) (s.acc, s.rem)).1
      = crcBytes s.cfg.POLY s.cfg.CRC_INIT ((image s).take (s.p + 1)) := by
  rw [accumulated, hc]

theorem accumulated_done {s : State} (hc : s.cphase = .C_DONE) :
    accumulated s ↔ s.crc = checksum s.cfg (image s) := by
  rw [accumulated, hc]

theorem image_take_succ {s : State} (more : s.p < s.cfg.L.toNat) :
    (image s).take (s.p + 1) = (image s).take s.p ++ [s.out.read s.p] := by
  rw [List.take_add_one, image, List.getElem?_map, List.getElem?_range more]
  rfl

/-- Every move of step 3 keeps the accumulator on its way. -/
theorem CheckMove.accumulated {s t : State} (h : CheckMove s t) (hs : accumulated s) :
    Machine.accumulated t := by
  cases h with
  | start => exact rfl
  | final hc all =>
    rw [accumulated_load hc, all, ← image_length s, List.take_length] at hs
    exact (accumulated_done (s := crcFinal s) rfl).2 (congrArg (~~~ ·) hs)
  | load hc more =>
    rw [accumulated_load hc] at hs
    refine (accumulated_bit (s := { s with rem := s.out.read s.p, j := 0, cphase := .C_BIT }) rfl).2 ?_
    calc crcByte s.cfg.POLY s.acc (s.out.read s.p)
      _ = crcBytes s.cfg.POLY s.cfg.CRC_INIT ((image s).take s.p ++ [s.out.read s.p]) := by
        rw [hs, crcBytes, crcBytes, List.foldl_append]; rfl
      _ = crcBytes s.cfg.POLY s.cfg.CRC_INIT ((image s).take (s.p + 1)) := by rw [image_take_succ more]
  | bit hc more =>
    rw [accumulated_bit hc, show 8 - s.j = 8 - (s.j + 1) + 1 by omega, bitSteps] at hs
    exact (accumulated_bit (s := bitDone s) hc).2 hs
  | lastBit hc last =>
    rw [accumulated_bit hc, last] at hs
    exact (accumulated_load (s := crcNext (bitDone s)) rfl).2 hs
  | equal | mismatch => exact hs

/-! ### The whole checksum -/

/-- Steps that each lower a measure by one end, after as many steps as the measure says, where it is 0. -/
theorem runSteps_countdown {f : State → Outcome} {P : State → Prop} {measure : State → Nat}
    (descends : ∀ s, P s → measure s ≠ 0 → ∃ t, f s = .next t ∧ P t ∧ measure t + 1 = measure s)
    {s : State} (hs : P s) : ∃ t, runSteps f (measure s) s = .next t ∧ P t ∧ measure t = 0 := by
  induction hm : measure s generalizing s with
  | zero => exact ⟨s, rfl, hs, hm⟩
  | succ left ih =>
    obtain ⟨u, hu, hPu, lower⟩ := descends s hs (by omega)
    obtain ⟨t, run, ht⟩ := ih hPu (by omega)
    exact ⟨t, (runSteps_succ hu left).trans run, ht⟩

/-- The steps of the engine to the end of the checksum: one for the start, for each byte one load and eight
bits, and one for the end. -/
def engineStepsLeft (s : State) : Nat :=
  match s.cphase with
  | .C_IDLE => 9 * s.cfg.L.toNat + 2
  | .C_LOAD => 9 * (s.cfg.L.toNat - s.p) + 1
  | .C_BIT => 9 * (s.cfg.L.toNat - s.p) - s.j
  | .C_DONE => 0

/-- The engine on its way, in the machine that it was started in. -/
structure EngineRuns (start s : State) : Prop where
  frame : s = { start with
    acc := s.acc, rem := s.rem, j := s.j, p := s.p, cphase := s.cphase, crc := s.crc }
  sum : accumulated s
  load : s.cphase = .C_LOAD → s.p ≤ s.cfg.L.toNat
  bit : s.cphase = .C_BIT → s.j ≤ 7 ∧ s.p < s.cfg.L.toNat
  done : s.cphase = .C_DONE → s.p = s.cfg.L.toNat

/-- In the ranges of `p` and `j` a step of the engine answers (R142, R143). -/
theorem checkStep_answers {s : State} (load : s.cphase = .C_LOAD → s.p ≤ s.cfg.L.toNat)
    (bit : s.cphase = .C_BIT → s.j ≤ 7) : ∃ t, checkStep s = .next t := by
  rw [checkStep]
  cases hc : s.cphase with
  | C_IDLE => exact ⟨_, rfl⟩
  | C_LOAD =>
    rcases Nat.lt_or_eq_of_le (load hc) with more | all
    · exact ⟨_, crcLoad_next.2 (.inr ⟨more, rfl⟩)⟩
    · exact ⟨_, crcLoad_next.2 (.inl ⟨all, rfl⟩)⟩
  | C_BIT =>
    rcases Nat.lt_or_eq_of_le (bit hc) with more | last
    · exact ⟨_, crcBit_next.2 (.inr ⟨more, rfl⟩)⟩
    · exact ⟨_, crcBit_next.2 (.inl ⟨last, rfl⟩)⟩
  | C_DONE => exact ⟨_, rfl⟩

/-- A move of the engine keeps it on its way, and is one of the steps left. -/
theorem EngineRuns.keeps {start s t : State} (h : EngineRuns start s) (move : CheckMove s t)
    (busy : s.cphase ≠ .C_DONE) : EngineRuns start t ∧ engineStepsLeft t + 1 = engineStepsLeft s := by
  have sum := move.accumulated h.sum
  cases move with
  | start hc =>
    refine ⟨⟨by rw [h.frame]; rfl, sum, fun _ => Nat.zero_le _, nofun, nofun⟩, ?_⟩
    simp [engineStepsLeft, hc]
  | final hc all =>
    refine ⟨⟨by rw [h.frame]; rfl, sum, nofun, nofun, fun _ => all⟩, ?_⟩
    simp [engineStepsLeft, hc, all]
  | load hc more =>
    refine ⟨⟨by rw [h.frame], sum, nofun, fun _ => ⟨Nat.zero_le _, more⟩, nofun⟩, ?_⟩
    simp [engineStepsLeft, hc]
  | bit hc notLast =>
    obtain ⟨-, more⟩ := h.bit hc
    refine ⟨⟨by rw [h.frame]; rfl, sum, fun hl => ?_, fun _ => ⟨notLast, more⟩, fun hl => ?_⟩, ?_⟩
    · cases hc.symm.trans hl
    · cases hc.symm.trans hl
    · simp only [engineStepsLeft, bitDone_cphase, hc, bitDone_cfg, bitDone_p, bitDone_j]
      omega
  | lastBit hc last =>
    obtain ⟨-, more⟩ := h.bit hc
    refine ⟨⟨by rw [h.frame]; rfl, sum, fun _ => more, nofun, nofun⟩, ?_⟩
    simp only [engineStepsLeft, crcNext_cphase, hc, crcNext_cfg, crcNext_p, bitDone_cfg, bitDone_p]
    omega
  | equal hc | mismatch hc => exact absurd hc busy

/-- Until it is done the engine makes a step, which is one of those left. -/
theorem EngineRuns.descends {start s : State} (hp : start.pphase = .P_CHECK) (h : EngineRuns start s)
    (left : engineStepsLeft s ≠ 0) :
    ∃ t, step s = .next t ∧ EngineRuns start t ∧ engineStepsLeft t + 1 = engineStepsLeft s := by
  have hs : s.pphase = .P_CHECK := by rw [h.frame]; exact hp
  have busy : s.cphase ≠ .C_DONE := fun hc => left (by rw [engineStepsLeft, hc])
  obtain ⟨t, ht⟩ := checkStep_answers h.load fun hc => (h.bit hc).1
  exact ⟨t, (step_check hs).trans ht, h.keeps (checkMove_of_checkStep ht) busy⟩

/-- With no step left the engine is done. -/
theorem EngineRuns.done_of_zero {start s : State} (h : EngineRuns start s) (none : engineStepsLeft s = 0) :
    s.cphase = .C_DONE := by
  rw [engineStepsLeft] at none
  cases hc : s.cphase with
  | C_IDLE | C_LOAD => rw [hc] at none; simp at none
  | C_BIT => obtain ⟨hj, more⟩ := h.bit hc; rw [hc] at none; simp only at none; omega
  | C_DONE => rfl

/-- Settles O32: the engine counts its steps down to C_DONE, where the accumulated sum is the checksum. -/
theorem engineComputesTheChecksum : Obligations.EngineComputesTheChecksum := by
  intro s hp hc
  have start : EngineRuns s s := by
    refine ⟨rfl, ?_, ?_, ?_, ?_⟩ <;> simp [accumulated, hc]
  have count : engineStepsLeft s = 9 * s.cfg.L.toNat + 2 := by rw [engineStepsLeft, hc]
  obtain ⟨t, run, ht, none⟩ := runSteps_countdown (fun _ => EngineRuns.descends hp) start
  refine ⟨t, count ▸ run, ?_⟩
  have done : t.cphase = .C_DONE := ht.done_of_zero none
  have same_cfg : t.cfg = s.cfg := by rw [ht.frame]
  have same_image : image t = image s := by rw [ht.frame]; rfl
  have all : t.p = s.cfg.L.toNat := same_cfg ▸ ht.done done
  have sum : t.crc = checksum s.cfg (image s) := by
    rw [← same_cfg, ← same_image]
    exact (accumulated_done done).1 ht.sum
  rw [← all, ← sum, ← done]
  exact ht.frame

end Sys2Proof.Machine
end

section
/-! PROOFS. The decoder stays on its way to what the big-step function gives (40_decoder_loop.md R107). -/

namespace Sys2Proof.Machine

/-! ### The output so far, last byte first -/

theorem writtenSoFar_length (s : State) : (writtenSoFar s).length = s.w := by simp [writtenSoFar]

/-- The byte `n` positions back in `OUT` is the `n`-th byte from the front of the list. -/
theorem writtenSoFar_back {s : State} (pos : 1 ≤ s.n) (reaches : s.n ≤ s.w) :
    (writtenSoFar s).getD (s.n - 1) 0 = s.out.read (s.w - s.n) := by
  have index : s.n - 1 < (writtenSoFar s).length := by rw [writtenSoFar_length]; omega
  rw [List.getD_eq_getElem _ _ index]
  simp only [writtenSoFar, List.getElem_reverse, List.getElem_map, List.getElem_range, List.length_map,
    List.length_range]
  congr 1
  omega

/-- A byte written at `w` comes to the front of the list. -/
theorem writtenSoFar_write {s t : State} (hout : s.out.wf = true) {b : Byte} (hw : t.w = s.w + 1)
    (written : t.out = s.out.write s.w b) : writtenSoFar t = b :: writtenSoFar s := by
  have before : (List.range s.w).map t.out.read = (List.range s.w).map s.out.read := by
    refine List.map_congr_left fun a ha => ?_
    rw [written, Memory.read_write hout, if_neg (Nat.ne_of_lt (List.mem_range.1 ha))]
  have last : t.out.read s.w = b := by rw [written, Memory.read_write hout, if_pos rfl]
  rw [writtenSoFar, hw, List.range_succ, List.map_append, List.reverse_append, before, writtenSoFar]
  simp [last]

/-- With nothing written at or beyond `w` the list holds every byte of `OUT`. -/
theorem read_eq_writtenSoFar {s : State} (below : s.out.below s.w = true) (a : Nat) :
    s.out.read a = (writtenSoFar s).reverse.getD a 0 := by
  rw [writtenSoFar, List.reverse_reverse]
  rcases Nat.lt_or_ge a s.w with inside | beyond
  · rw [List.getD_eq_getElem _ _ (by simpa using inside)]
    simp
  · rw [List.getD_eq_default _ _ (by simpa using beyond), Memory.read_of_below below beyond]
    rfl

/-! ### One iteration of the big-step loop -/

section
variable {cfg : Config} {N : Nat} {cin : Nat → Byte} {fuel : Nat} {written : List Byte} {c i : Nat}

theorem bigLoop_full (full : cfg.L.toNat ≤ written.length) :
    bigLoop cfg N cin (fuel + 1) written c i = ⟨written, c, i, .FULL⟩ := by
  rw [bigLoop, if_pos full]

theorem bigLoop_cap (room : written.length < cfg.L.toNat) (hit : bigCapHit cfg c i = true) :
    bigLoop cfg N cin (fuel + 1) written c i = ⟨written, c, i, .CAP⟩ := by
  rw [bigLoop, if_neg (Nat.not_le.2 room), if_pos hit]

theorem bigLoop_noControl (room : written.length < cfg.L.toNat) (below : bigCapHit cfg c i = false)
    (ends : N ≤ c) : bigLoop cfg N cin (fuel + 1) written c i = ⟨written, c, i, .OVERRUN⟩ := by
  rw [bigLoop, if_neg (Nat.not_le.2 room), if_neg (by simp [below]), if_pos ends]

theorem bigLoop_underflow (room : written.length < cfg.L.toNat) (below : bigCapHit cfg c i = false)
    (stream : c < N) (hb : 128 ≤ (cin c).toNat) (short : written.length < refDistance (cin c)) :
    bigLoop cfg N cin (fuel + 1) written c i = ⟨written, c + 1, i + 1, .UNDERFLOW⟩ := by
  rw [bigLoop, if_neg (Nat.not_le.2 room), if_neg (by simp [below]), if_neg (Nat.not_le.2 stream),
    if_pos ((sext8_neg _).2 hb), neg_sext8_toNat hb, if_pos short]

end

/-! ### What is still to come, by the phase of the decoder -/

theorem decodeFrom_head {s : State} (hd : s.dphase = .IDLE ∨ s.dphase = .TOP) :
    decodeFrom s = loopFrom s (writtenSoFar s) s.c := by
  rcases hd with hd | hd <;> rw [decodeFrom, hd]

/-- At the start of a decode all of it is still to come. -/
theorem decodeFrom_start {s : State} (hd : s.dphase = .IDLE) (cursors : s.c = 0 ∧ s.w = 0 ∧ s.i = 0) :
    decodeFrom s = bigDecode s.cfg s.N.toNat s.cin.read := by
  simp [decodeFrom_head (.inl hd), loopFrom, bigDecode, writtenSoFar, cursors]

theorem decodeFrom_halt {s : State} (hd : s.dphase = .HALT) :
    decodeFrom s = ⟨writtenSoFar s, s.c, s.i, s.cause⟩ := by rw [decodeFrom, hd]

theorem decodeFrom_refLen {s : State} (hd : s.dphase = .REFLEN) :
    decodeFrom s = if s.N.toNat ≤ s.c then ⟨writtenSoFar s, s.c, s.i, .OVERRUN⟩
      else refFrom s ((s.cin.read s.c).toNat + 1) (s.c + 1) := by rw [decodeFrom, hd]

theorem decodeFrom_refCopy {s : State} (hd : s.dphase = .REFCOPY) : decodeFrom s = refFrom s s.k s.c := by
  rw [decodeFrom, hd]

theorem decodeFrom_litCopy {s : State} (hd : s.dphase = .LITCOPY) : decodeFrom s = litFrom s := by
  rw [decodeFrom, hd]

/-! ### A decoder on its way -/

/-- What the moves of the decoder need and keep for any stream: the enabling conditions, the ranges of `c` and
`i`, a distance of at least 1, and `OUT` in canonical form with nothing at or beyond `w`. -/
structure OnTrack (s : State) : Prop where
  enabled : Enabled s
  iterations : s.i ≤ s.c
  cRange : s.c ≤ s.N.toNat
  nPos : s.dphase = .REFLEN ∨ s.dphase = .REFCOPY → 1 ≤ s.n
  outWf : s.out.wf = true
  unwritten : s.out.below s.w = true

theorem bigCapHit_eq (s : State) : bigCapHit s.cfg s.c s.i = capHit s := rfl

/-- At the head of the loop there is fuel for one more iteration. -/
theorem decodeFrom_top {s : State} (h : OnTrack s) (hd : s.dphase = .TOP) :
    decodeFrom s = bigLoop s.cfg s.N.toNat s.cin.read (s.N.toNat - s.i + 1) (writtenSoFar s) s.c s.i := by
  rw [decodeFrom_head (.inr hd), loopFrom, Nat.succ_sub (h.iterations.trans h.cRange)]

/-- The fetch of a literal run goes from the loop into its copy loop. -/
theorem decodeFrom_literal {s : State} (h : OnTrack s) (hd : s.dphase = .TOP) (room : s.w < s.cfg.L.toNat)
    (below : capHit s = false) (stream : s.c < s.N.toNat) (hb : (s.cin.read s.c).toNat < 128) :
    decodeFrom (litEntry (fetched (s.cin.read s.c) s)) = decodeFrom s := by
  rw [decodeFrom_top h hd, bigLoop, if_neg (by rw [writtenSoFar_length]; omega),
    if_neg (by rw [bigCapHit_eq, below]; simp), if_neg (Nat.not_le.2 stream),
    if_neg (fun neg => Nat.not_le.2 hb ((sext8_neg _).1 neg)), ← Nat.add_sub_add_right s.N.toNat 1 s.i]
  rfl

/-- The fetch of a back-reference run goes from the loop to its length byte. -/
theorem decodeFrom_reference {s : State} (h : OnTrack s) (hd : s.dphase = .TOP)
    (room : s.w < s.cfg.L.toNat) (below : capHit s = false) (stream : s.c < s.N.toNat)
    (hb : 128 ≤ (s.cin.read s.c).toNat) (reaches : refDistance (s.cin.read s.c) ≤ s.w) :
    decodeFrom { fetched (s.cin.read s.c) s with n := refDistance (s.cin.read s.c), dphase := .REFLEN }
      = decodeFrom s := by
  rw [decodeFrom_top h hd, bigLoop, if_neg (by rw [writtenSoFar_length]; omega),
    if_neg (by rw [bigCapHit_eq, below]; simp), if_neg (Nat.not_le.2 stream),
    if_pos ((sext8_neg _).2 hb), neg_sext8_toNat hb, if_neg (by rw [writtenSoFar_length]; omega),
    ← Nat.add_sub_add_right s.N.toNat 1 s.i]
  rfl

/-- A run of which no byte is left to copy is back at the head of the loop. -/
theorem decodeFrom_refCopied {s : State} (hd : s.dphase = if s.k = 0 then .TOP else .REFCOPY) :
    decodeFrom s = refFrom s s.k s.c := by
  by_cases done : s.k = 0
  · rw [if_pos done] at hd
    rw [decodeFrom_head (.inr hd), done]
    rfl
  · rw [if_neg done] at hd
    exact decodeFrom_refCopy hd

theorem decodeFrom_litCopied {s : State} (hd : s.dphase = if s.k = 0 then .TOP else .LITCOPY) :
    decodeFrom s = litFrom s := by
  by_cases done : s.k = 0
  · rw [if_pos done] at hd
    rw [decodeFrom_head (.inr hd), litFrom, done]
    rfl
  · rw [if_neg done] at hd
    exact decodeFrom_litCopy hd

/-- One byte copied is one round of the big-step copy loop of a back-reference run. -/
theorem decodeFrom_refByte {s : State} (h : OnTrack s) (hd : s.dphase = .REFCOPY)
    (room : s.w < s.cfg.L.toNat) (k_ne : s.k ≠ 0) :
    decodeFrom (byteDone { s with out := s.out.write s.w (s.out.read (s.w - s.n)) }) = decodeFrom s := by
  obtain ⟨k, hk⟩ := Nat.exists_eq_succ_of_ne_zero k_ne
  obtain ⟨reaches, -⟩ := h.enabled.refCopy hd
  rw [decodeFrom_refCopied (by simp [hd, hk]), decodeFrom_refCopy hd, refFrom, refFrom,
    writtenSoFar_write (s := s) h.outWf rfl rfl, hk, bigRefCopy,
    if_neg (by rw [writtenSoFar_length]; omega), writtenSoFar_back (h.nPos (.inr hd)) reaches]
  simp only [byteDone_k]
  rfl

/-- One byte copied is one round of the big-step copy loop of a literal run. -/
theorem decodeFrom_litByte {s : State} (h : OnTrack s) (hd : s.dphase = .LITCOPY)
    (room : s.w < s.cfg.L.toNat) (stream : s.c < s.N.toNat) (k_ne : s.k ≠ 0) :
    decodeFrom (byteDone { s with c := s.c + 1, out := s.out.write s.w (s.cin.read s.c) })
      = decodeFrom s := by
  obtain ⟨k, hk⟩ := Nat.exists_eq_succ_of_ne_zero k_ne
  rw [decodeFrom_litCopied (by simp [hd, hk]), decodeFrom_litCopy hd, litFrom, litFrom,
    writtenSoFar_write (s := s) h.outWf rfl rfl, hk, bigLitCopy,
    if_neg (by rw [writtenSoFar_length]; omega), if_neg (Nat.not_le.2 stream)]
  simp only [byteDone_k]
  rfl

/-- Full output stops the big-step function where it stops the decoder. -/
theorem decodeFrom_full {s : State} (h : OnTrack s)
    (hd : s.dphase = .TOP ∨ s.dphase = .REFCOPY ∨ s.dphase = .LITCOPY) (full : s.cfg.L.toNat ≤ s.w) :
    decodeFrom s = ⟨writtenSoFar s, s.c, s.i, .FULL⟩ := by
  rw [← writtenSoFar_length s] at full
  rcases hd with hd | hd | hd
  · rw [decodeFrom_top h hd, bigLoop_full full]
  · obtain ⟨-, k_pos⟩ := h.enabled.refCopy hd
    obtain ⟨k, hk⟩ := Nat.exists_eq_succ_of_ne_zero (Nat.ne_of_gt k_pos)
    rw [decodeFrom_refCopy hd, refFrom, hk, bigRefCopy, if_pos full]
  · obtain ⟨k, hk⟩ := Nat.exists_eq_succ_of_ne_zero (Nat.ne_of_gt (h.enabled.litCopy hd))
    rw [decodeFrom_litCopy hd, litFrom, hk, bigLitCopy, if_pos full]

/-- No move changes what the big-step function gives from the state on. -/
theorem DecoderMove.decodeFrom_eq {s t : State} (move : DecoderMove s t) (h : OnTrack s) :
    decodeFrom t = decodeFrom s := by
  have length := writtenSoFar_length s
  cases move with
  | start hd => rw [decodeFrom_head (.inl hd)]; rfl
  | full hd full => rw [decodeFrom_full h hd full]; rfl
  | cap hd room hit =>
    rw [decodeFrom_top h hd, bigLoop_cap (by omega) hit]; rfl
  | noControl hd room below ends =>
    rw [decodeFrom_top h hd, bigLoop_noControl (by omega) below ends]; rfl
  | noLength hd ends => rw [decodeFrom_refLen hd, if_pos ends]; rfl
  | noLiteral hd room ends =>
    obtain ⟨k, hk⟩ := Nat.exists_eq_succ_of_ne_zero (Nat.ne_of_gt (h.enabled.litCopy hd))
    rw [decodeFrom_litCopy hd, litFrom, hk, bigLitCopy, if_neg (by omega), if_pos ends]; rfl
  | literal hd room below stream hb => exact decodeFrom_literal h hd room below stream hb
  | underflow hd room below stream hb short =>
    rw [decodeFrom_top h hd, bigLoop_underflow (by omega) below stream hb (by omega)]; rfl
  | reference hd room below stream hb reaches =>
    exact decodeFrom_reference h hd room below stream hb reaches
  | lengthByte hd stream => rw [decodeFrom_refLen hd, if_neg (Nat.not_le.2 stream)]; rfl
  | refByte hd room _ k_ne => exact decodeFrom_refByte h hd room k_ne
  | litByte hd room stream k_ne => exact decodeFrom_litByte h hd room stream k_ne

/-- A move keeps the decoder on its way, and `OUT` with it. -/
theorem DecoderMove.onTrack {s t : State} (move : DecoderMove s t) (h : OnTrack s) : OnTrack t := by
  refine ⟨move.enabled h.enabled, move.iterations_le h.iterations, ?cRange, ?nPos, ?outWf, ?unwritten⟩
  case cRange =>
    cases move
    case literal _ _ _ stream _ | underflow _ _ _ stream _ _ | reference _ _ _ stream _ _ |
      lengthByte _ stream | litByte _ _ stream _ => exact stream
    all_goals exact h.cRange
  case nPos =>
    cases move with
    | reference => exact fun _ => refDistance_pos _
    | lengthByte hd => exact fun _ => h.nPos (.inl hd)
    | refByte hd => exact fun _ => h.nPos (.inr hd)
    | litByte hd => rw [byteDone_dphase]; split <;> simp [hd]
    | _ => simp
  case outWf =>
    cases move
    case refByte | litByte => exact Memory.wf_write h.outWf _ _
    all_goals exact h.outWf
  case unwritten =>
    cases move
    case refByte | litByte =>
      exact Memory.below_write (Memory.below_mono h.unwritten (Nat.le_succ s.w)) (Nat.lt_succ_self s.w) _
    all_goals exact h.unwritten

end Sys2Proof.Machine
end

section
/-! PROOFS. Iterated whole-run steps give the big-step function (40_decoder_loop.md R107). -/

namespace Sys2Proof.Machine

/-! ### The moves inside a whole-run step -/

/-- In step 2 of the pipeline with a fact of the decoder, or past step 2. -/
def DecodingOrPast (P : State → Prop) (s : State) : Prop :=
  s.pphase ≠ .P_IDLE ∧ s.pphase ≠ .P_LOAD ∧ (s.pphase = .P_DECODE → P s)

/-- The pipeline does not come back to step 2, so what every move keeps is a fact of the decoder or past. -/
theorem microStep_decodingOrPast {P : State → Prop} (keeps : ∀ s t, P s → DecoderMove s t → P t)
    (s t : State) (hs : DecodingOrPast P s) (h : microStep s = .next t) : DecodingOrPast P t := by
  obtain ⟨notIdle, notLoad, hP⟩ := hs
  by_cases running : s.pphase = .P_DECODE ∧ s.dphase ≠ .HALT
  · have move := decoderMove_of_microStep running.1 running.2 h
    rw [← move.pphase_eq] at notIdle notLoad
    exact ⟨notIdle, notLoad, fun _ => keeps s t (hP running.1) move⟩
  · have past : t.pphase ≠ .P_IDLE ∧ t.pphase ≠ .P_LOAD ∧ t.pphase ≠ .P_DECODE := by
      have head : ¬ (s.pphase = .P_DECODE ∧ s.dphase = .TOP) := fun ⟨hp, hd⟩ => running ⟨hp, by simp [hd]⟩
      rw [microStep_eq_step head] at h
      by_cases hp : s.pphase = .P_DECODE
      · rw [step_halt hp (by simpa [hp] using running)] at h
        obtain ⟨-, rfl⟩ | ⟨-, -, rfl⟩ := pipeDecoded_next.1 h <;> simp
      · rcases pipelineStepsKeepTheirOrder s t h with same | ⟨hs, -⟩ | ⟨hs, -⟩ | ⟨hs, -⟩ | ⟨-, ht, -⟩ |
          ⟨-, ht, -⟩ | ⟨-, ht, -⟩
        · rw [same]; exact ⟨notIdle, notLoad, hp⟩
        · exact absurd hs notIdle
        · exact absurd hs notLoad
        · exact absurd hs hp
        all_goals rcases ht with ht | ht <;> simp [ht]
    exact ⟨past.1, past.2.1, fun hp => absurd hp past.2.2⟩

/-- What every move of the decoder keeps, a step of a running decoder keeps, a whole run included. -/
theorem keeps_of_decoderMove {P : State → Prop} (keeps : ∀ s t, P s → DecoderMove s t → P t) {s t : State}
    (hp : s.pphase = .P_DECODE) (running : s.dphase ≠ .HALT) (hs : P s) (h : step s = .next t) : P t := by
  have start : DecodingOrPast P s := ⟨by simp [hp], by simp [hp], fun _ => hs⟩
  exact (keeps_of_microStep (microStep_decodingOrPast keeps) start (.inl h)).2.2
    ((step_pphase_of_running hp running h).trans hp)

/-- A whole-run step halts the decoder, or comes back to the head of the loop with bytes read. -/
theorem runTop_progress {s t : State} (h : runTop s = .next t) :
    t.dphase = .HALT ∨ (t.dphase = .TOP ∧ s.c < t.c) := by
  cases goesOn : loopTest s with
  | some why => cases h.symm.trans (runTop_stop goesOn); exact .inl rfl
  | none =>
    rcases Nat.lt_or_ge s.c s.N.toNat with stream | ends
    · obtain ⟨i, hwf, decoded⟩ := runWindow_decodes s
      rw [runTop_decoded goesOn stream decoded] at h
      cases i with
      | lit bytes =>
        obtain ⟨-, h'⟩ | ⟨done, -, -, h'⟩ := execLit_cases hwf s <;> cases h.symm.trans h'
        · exact .inl rfl
        · by_cases complete : done = bytes.length
          · exact .inr ⟨if_pos complete, by simp only; omega⟩
          · exact .inl (if_neg complete)
      | ref n count =>
        obtain ⟨-, h'⟩ | ⟨-, -, h'⟩ | ⟨-, -, h'⟩ | ⟨done, -, -, -, h'⟩ := execRef_cases hwf s <;>
          cases h.symm.trans h'
        · exact .inl rfl
        · exact .inl rfl
        · exact .inl rfl
        · by_cases complete : done = count
          · exact .inr ⟨if_pos complete, by simp only; omega⟩
          · exact .inl (if_neg complete)
    · cases h.symm.trans (runTop_overrun goesOn ends); exact .inl rfl

/-! ### The decode as a whole -/

/-- A decode on its way to a result, between two whole-run steps. -/
structure DecodesTo (cfg : Config) (N : Word) (cin : Memory) (result : DecodeResult) (s : State) : Prop where
  phase : s.pphase = .P_DECODE
  inputs : s.cfg = cfg ∧ s.N = N ∧ s.cin = cin
  onTrack : OnTrack s
  still : decodeFrom s = result

theorem DecoderMove.decodesTo {cfg : Config} {N : Word} {cin : Memory} {result : DecodeResult} {s t : State}
    (h : DecodesTo cfg N cin result s) (move : DecoderMove s t) : DecodesTo cfg N cin result t := by
  refine ⟨move.pphase_eq.trans h.phase, ?_, move.onTrack h.onTrack,
    (move.decodeFrom_eq h.onTrack).trans h.still⟩
  rw [move.cfg_eq, move.N_eq, move.cin_eq]
  exact h.inputs

/-- A bound on the whole-run steps before the decoder halts: a run takes at least one byte. -/
def runsLeft (s : State) : Nat :=
  match s.dphase with
  | .IDLE => s.N.toNat - s.c + 2
  | .TOP => s.N.toNat - s.c + 1
  | .REFLEN => 0
  | .REFCOPY => 0
  | .LITCOPY => 0
  | .HALT => 0

/-- Until the decoder halts a decode between two whole-run steps makes one more. -/
theorem DecodesTo.descends {cfg : Config} {N : Word} {cin : Memory} {result : DecodeResult} {s : State}
    (h : DecodesTo cfg N cin result s ∧ (s.dphase = .IDLE ∨ s.dphase = .TOP ∨ s.dphase = .HALT))
    (running : s.dphase ≠ .HALT) :
    ∃ t, step s = .next t ∧
      (DecodesTo cfg N cin result t ∧ (t.dphase = .IDLE ∨ t.dphase = .TOP ∨ t.dphase = .HALT)) ∧
      runsLeft t < runsLeft s := by
  obtain ⟨hs, hd⟩ := h
  have keeps {t} (ht : step s = .next t) : DecodesTo cfg N cin result t :=
    keeps_of_decoderMove (fun _ _ => DecoderMove.decodesTo) hs.phase running hs ht
  rcases hd with hd | hd | hd
  · have start := startTurnsToTheLoop s hs.phase hd
    exact ⟨_, start, ⟨keeps start, .inr (.inl rfl)⟩, by simp [runsLeft, hd]⟩
  · obtain ⟨t, ht⟩ := runTop_answers s
    have kept := keeps ((step_top hs.phase hd).trans ht)
    refine ⟨t, (step_top hs.phase hd).trans ht, ⟨kept, ?_⟩, ?_⟩
    · rcases runTop_progress ht with halt | ⟨top, -⟩
      · exact .inr (.inr halt)
      · exact .inr (.inl top)
    · have same : t.N = s.N := kept.inputs.2.1.trans hs.inputs.2.1.symm
      have le := kept.onTrack.cRange
      rcases runTop_progress ht with halt | ⟨top, more⟩
      · simp [runsLeft, halt, hd]
      · rw [same] at le
        simp only [runsLeft, top, hd, same]
        omega
  · exact absurd hd running

/-- Settles O27: from the start of a decode, where the rest of the decode is all of it, whole-run steps keep
what is still to come, until the decoder has halted and nothing is. -/
theorem decodeIsTheBigStepFunction : Obligations.DecodeIsTheBigStepFunction := by
  intro s hp hd hcause hc hw hi hout
  have onTrack : OnTrack s := by
    refine ⟨.of_outside (.inl hd), ?_, ?_, ?_, ?_, ?_⟩ <;> simp [hc, hi, hd, hout]
  have start : DecodesTo s.cfg s.N s.cin (bigDecode s.cfg s.N.toNat s.cin.read) s :=
    ⟨hp, ⟨rfl, rfl, rfl⟩, onTrack, decodeFrom_start hd ⟨hc, hw, hi⟩⟩
  obtain ⟨m, t, le, run, ⟨ht, -⟩, halted⟩ :=
    runSteps_descent (goal := (·.dphase = .HALT)) (fun _ => DecodesTo.descends) ⟨start, .inl hd⟩
  have result := ht.still
  rw [decodeFrom_halt halted] at result
  refine ⟨m, t, ?_, run, halted, ?_⟩
  · simpa [runsLeft, hd, hc] using le
  · rw [← result]
    exact ⟨rfl, (writtenSoFar_length t).symm, rfl, rfl, read_eq_writtenSoFar ht.onTrack.unwritten⟩

end Sys2Proof.Machine
end

section
/-! PROOFS. Every step keeps the invariants of the decoder (10_state.md R22, R29, R41; 60_exceptions.md R180,
R181). -/

namespace Sys2Proof.Machine

/-! ### The moves of the decoder -/

/-- In step 2 of the pipeline the invariants of the decoder put it on its way. -/
theorem DecoderInv.onTrack {s : State} (h : DecoderInv s) (hp : s.pphase = .P_DECODE) : OnTrack s where
  enabled :=
    ⟨fun hd => (h.refLen hd).2, fun hd => (h.refCopy hd).2, fun hd => (h.litCopy hd).1⟩
  iterations := h.iRange
  cRange := h.cRange
  nPos hd := hd.elim (fun hd => (h.refLen hd).1) fun hd => (h.refCopy hd).1
  outWf := h.outWf
  unwritten := by simpa [hp] using h.unwritten

theorem DecoderInv.cause_of_running {s : State} (h : DecoderInv s) (running : s.dphase ≠ .HALT) :
    s.cause = .NONE := by
  by_contra stopped
  exact running (h.halted.2 stopped)

/-- Whatever the phase, the cursor is at most 128 beyond the cap. -/
theorem DecoderInv.cursor_le {s : State} (h : DecoderInv s) (kind : s.cfg.CAP_KIND = .CURSOR) :
    s.c ≤ s.cfg.CAP.toNat + 128 := by
  have := h.cursor kind
  rw [cursorBound] at this
  cases hd : s.dphase <;> rw [hd] at this <;> simp only at this <;> omega

/-- A stop keeps the invariants, where what its cause records holds. -/
theorem DecoderInv.raiseStop {s : State} (h : DecoderInv s) (why : Cause) (stops : why ≠ .NONE)
    (full : why = .FULL → s.w = s.cfg.L.toNat) (cap : why = .CAP → capHit s = true ∧ s.w < s.cfg.L.toNat)
    (underflow : why = .UNDERFLOW → s.w < s.n) (overrun : why = .OVERRUN → s.c = s.N.toNat) :
    DecoderInv (Machine.raiseStop why s) :=
  { h with
    cursor := fun kind => h.cursor_le kind
    refLen := nofun, refCopy := nofun, litCopy := nofun
    halted := iff_of_true rfl stops
    full := full, cap := cap, underflow := underflow, overrun := overrun }

/-- The fetch of a control byte below the cap keeps the invariants, whatever distance it gives. -/
theorem DecoderInv.fetched {s : State} (h : DecoderInv s) (hd : s.dphase = .TOP)
    (below : capHit s = false) (stream : s.c < s.N.toNat) (b : Byte) {n : Nat} (n_le : n ≤ 128) :
    DecoderInv { Machine.fetched b s with n := n } := by
  have none := h.cause_of_running (by simp [hd])
  obtain ⟨cursor, iter⟩ := capHit_false.1 below
  exact { h with
    cRange := stream
    cursor := fun kind => by
      have := cursor kind
      simp only [cursorBound, fetched_dphase, hd, fetched_c, fetched_cfg]
      omega
    iRange := Nat.succ_le_succ h.iRange
    iCap := iter
    nRange := n_le
    refLen := fun h' => by cases hd.symm.trans h'
    refCopy := fun h' => by cases hd.symm.trans h'
    cap := by simp [none]
    underflow := by simp [none]
    overrun := by simp [none] }

theorem DecoderMove.decoderInv_literal {s : State} (h : DecoderInv s) (hd : s.dphase = .TOP)
    (below : capHit s = false) (stream : s.c < s.N.toNat) (hb : (s.cin.read s.c).toNat < 128) :
    DecoderInv (litEntry (fetched (s.cin.read s.c) s)) := by
  have none := h.cause_of_running (by simp [hd])
  have k_le : (sext8 (s.cin.read s.c)).toNat + 1 ≤ 128 := by rw [sext8_of_lt hb]; omega
  exact { h.fetched hd below stream (s.cin.read s.c) h.nRange with
    cursor := fun kind => by
      have := (capHit_false.1 below).1 kind
      simp only [cursorBound, litEntry_dphase, litEntry_c, litEntry_k, litEntry_cfg, fetched_c, fetched_v,
        fetched_cfg]
      omega
    kRange := k_le.trans (by omega)
    refLen := nofun, refCopy := nofun
    litCopy := fun _ => ⟨Nat.le_add_left 1 _, k_le⟩
    halted := iff_of_false (by simp) (by simp [none]) }

theorem DecoderMove.decoderInv_reference {s : State} (h : DecoderInv s) (hd : s.dphase = .TOP)
    (below : capHit s = false) (stream : s.c < s.N.toNat) (hb : 128 ≤ (s.cin.read s.c).toNat)
    (reaches : refDistance (s.cin.read s.c) ≤ s.w) :
    DecoderInv
      { fetched (s.cin.read s.c) s with n := refDistance (s.cin.read s.c), dphase := .REFLEN } := by
  have none := h.cause_of_running (by simp [hd])
  exact { h.fetched hd below stream (s.cin.read s.c) (refDistance_le hb) with
    cursor := fun kind => (capHit_false.1 below).1 kind
    refLen := fun _ => ⟨refDistance_pos _, reaches⟩
    refCopy := nofun, litCopy := nofun
    halted := iff_of_false (by simp) (by simp [none]) }

theorem DecoderMove.decoderInv_lengthByte {s : State} (h : DecoderInv s) (hd : s.dphase = .REFLEN)
    (stream : s.c < s.N.toNat) : DecoderInv (refLen (some (s.cin.read s.c)) s) := by
  have none := h.cause_of_running (by simp [hd])
  obtain ⟨n_pos, reaches⟩ := h.refLen hd
  exact { h with
    cRange := stream
    cursor := fun kind => by
      have := h.cursor kind
      rw [cursorBound, hd] at this
      exact Nat.succ_le_succ this
    iRange := Nat.le_succ_of_le h.iRange
    kRange := (s.cin.read s.c).isLt
    refLen := nofun
    refCopy := fun _ => ⟨n_pos, reaches, Nat.le_add_left 1 _⟩
    litCopy := nofun
    halted := iff_of_false (by simp) (by simp [none])
    cap := by simp [none]
    overrun := by simp [none] }

/-- A byte written at `w` keeps what holds of `OUT`. -/
theorem DecoderInv.written {s : State} (h : DecoderInv s) (hp : s.pphase = .P_DECODE)
    (room : s.w < s.cfg.L.toNat) (b : Byte) :
    (s.out.write s.w b).wf = true ∧ (s.out.write s.w b).below s.cfg.L.toNat = true ∧
      (s.out.write s.w b).below (s.w + 1) = true :=
  ⟨Memory.wf_write h.outWf _ _, Memory.below_write h.outBelow room _,
    Memory.below_write (Memory.below_mono (h.onTrack hp).unwritten (Nat.le_succ s.w))
      (Nat.lt_succ_self s.w) _⟩

theorem DecoderMove.decoderInv_refByte {s : State} (h : DecoderInv s) (hp : s.pphase = .P_DECODE)
    (hd : s.dphase = .REFCOPY) (room : s.w < s.cfg.L.toNat) :
    DecoderInv (byteDone { s with out := s.out.write s.w (s.out.read (s.w - s.n)) }) := by
  have none := h.cause_of_running (by simp [hd])
  obtain ⟨n_pos, reaches, k_pos⟩ := h.refCopy hd
  obtain ⟨outWf, outBelow, unwritten⟩ := h.written hp room (s.out.read (s.w - s.n))
  have cursor := h.cursor
  rw [cursorBound, hd] at cursor
  exact { h with
    outWf := outWf, outBelow := outBelow, unwritten := .inr (.inr (.inr unwritten))
    wRange := room
    cursor := fun kind => by
      have := cursor kind
      by_cases last : s.k = 1 <;> simp [cursorBound, hd, last] <;> omega
    kRange := (Nat.sub_le _ _).trans h.kRange
    refLen := by simp only [byteDone_dphase]; split <;> simp [hd]
    refCopy := by
      by_cases last : s.k = 1 <;> simp [hd, last]
      omega
    litCopy := by simp only [byteDone_dphase]; split <;> simp [hd]
    halted := iff_of_false (byteDone_running (by simp [hd])) (by simp [none])
    full := by simp [none], cap := by simp [none], underflow := by simp [none] }

theorem DecoderMove.decoderInv_litByte {s : State} (h : DecoderInv s) (hp : s.pphase = .P_DECODE)
    (hd : s.dphase = .LITCOPY) (room : s.w < s.cfg.L.toNat) (stream : s.c < s.N.toNat) :
    DecoderInv (byteDone { s with c := s.c + 1, out := s.out.write s.w (s.cin.read s.c) }) := by
  have none := h.cause_of_running (by simp [hd])
  obtain ⟨k_pos, k_le⟩ := h.litCopy hd
  obtain ⟨outWf, outBelow, unwritten⟩ := h.written hp room (s.cin.read s.c)
  have cursor := h.cursor
  rw [cursorBound, hd] at cursor
  exact { h with
    outWf := outWf, outBelow := outBelow, unwritten := .inr (.inr (.inr unwritten))
    wRange := room
    cRange := stream
    cursor := fun kind => by
      have := cursor kind
      by_cases last : s.k = 1 <;> simp [cursorBound, hd, last] <;> omega
    iRange := Nat.le_succ_of_le h.iRange
    kRange := (Nat.sub_le _ _).trans h.kRange
    refLen := by simp only [byteDone_dphase]; split <;> simp [hd]
    refCopy := by simp only [byteDone_dphase]; split <;> simp [hd]
    litCopy := by
      by_cases last : s.k = 1 <;> simp [hd, last]
      omega
    halted := iff_of_false (byteDone_running (by simp [hd])) (by simp [none])
    full := by simp [none], cap := by simp [none], underflow := by simp [none]
    overrun := by simp [none] }

/-- Every move of the decoder keeps its invariants. -/
theorem DecoderMove.decoderInv {s t : State} (move : DecoderMove s t) (hp : s.pphase = .P_DECODE)
    (h : DecoderInv s) : DecoderInv t := by
  cases move with
  | start hd =>
    have none := h.cause_of_running (by simp [hd])
    exact { h with
      cursor := fun kind => h.cursor_le kind
      refLen := nofun, refCopy := nofun, litCopy := nofun
      halted := iff_of_false (by simp) (by simp [none]) }
  | full hd full => exact h.raiseStop _ nofun (fun _ => le_antisymm h.wRange full) nofun nofun nofun
  | cap hd room hit => exact h.raiseStop _ nofun nofun (fun _ => ⟨hit, room⟩) nofun nofun
  | noControl hd room below ends =>
    exact h.raiseStop _ nofun nofun nofun nofun fun _ => le_antisymm h.cRange ends
  | noLength hd ends => exact h.raiseStop _ nofun nofun nofun nofun fun _ => le_antisymm h.cRange ends
  | noLiteral hd room ends =>
    exact h.raiseStop _ nofun nofun nofun nofun fun _ => le_antisymm h.cRange ends
  | literal hd room below stream hb => exact decoderInv_literal h hd below stream hb
  | underflow hd room below stream hb short =>
    exact (h.fetched hd below stream _ (refDistance_le hb)).raiseStop _ nofun nofun nofun (fun _ => short)
      nofun
  | reference hd room below stream hb reaches => exact decoderInv_reference h hd below stream hb reaches
  | lengthByte hd stream => exact decoderInv_lengthByte h hd stream
  | refByte hd room _ _ => exact decoderInv_refByte h hp hd room
  | litByte hd room stream _ => exact decoderInv_litByte h hp hd room stream

/-! ### The other agents -/

/-- A decoder at its reset values meets its invariants, whatever the stream (R47, R162, R210). -/
theorem DecoderInv.of_reset {s : State} (cinWf : s.cin.wf = true) (cinBelow : s.cin.below s.N.toNat = true)
    (out : s.out = []) (cursors : s.c = 0 ∧ s.w = 0 ∧ s.i = 0) (operands : s.n = 0 ∧ s.k = 0)
    (hd : s.dphase = .IDLE) (hcause : s.cause = .NONE) : DecoderInv s := by
  obtain ⟨hc, hw, hi⟩ := cursors
  obtain ⟨hn, hk⟩ := operands
  constructor <;> simp [*, cursorBound]

/-- Before step 5 nothing has been written at or beyond `w`. -/
theorem DecoderInv.below_w {s : State} (h : DecoderInv s)
    (hp : s.pphase ≠ .P_WRITE ∧ s.pphase ≠ .P_DONE ∧ s.pphase ≠ .P_FAILED) : s.out.below s.w = true := by
  simpa [hp] using h.unwritten

theorem decoderInv_pipeLoad {s t : State} (h : DecoderInv s) (step : pipeLoad s = .next t) :
    DecoderInv t := by
  obtain ⟨-, h'⟩ | ⟨-, h'⟩ | ⟨file, hf, fits, h'⟩ | ⟨-, h'⟩ := pipeLoad_cases s <;> cases step.symm.trans h'
  · exact h
  · exact { h with unwritten := .inr (.inr (.inl rfl)) }
  · exact .of_reset (Memory.wf_ofBytes _ _) (loadBuffer_cin_below (hf ▸ fits)) rfl ⟨rfl, rfl, rfl⟩
      ⟨rfl, rfl⟩ rfl rfl

theorem CheckMove.decoderInv {s t : State} (move : CheckMove s t) (h : DecoderInv s)
    (hp : s.pphase = .P_CHECK) : DecoderInv t := by
  rw [move.frame]
  exact { h with unwritten := .inr (.inr (.inr (h.below_w (by simp [hp])))) }

theorem decoderInv_pipePatch {s : State} (h : DecoderInv s) : DecoderInv (pipePatch s) := by
  obtain ⟨-, h'⟩ | ⟨-, h'⟩ | ⟨-, -, h'⟩ | ⟨-, room, h'⟩ := pipePatch_cases s <;> rw [h']
  · exact h
  · exact { h with unwritten := .inl rfl }
  · exact { h with unwritten := .inr (.inr (.inl rfl)) }
  · exact { h with
      outWf := Memory.wf_writeBytes h.outWf _ _
      outBelow := Memory.below_writeBytes h.outBelow (by simpa using room)
      unwritten := .inl rfl }

theorem decoderInv_pipeWrite {s : State} (h : DecoderInv s) : DecoderInv (pipeWrite s) := by
  obtain ⟨-, h'⟩ | ⟨-, h'⟩ | ⟨-, h'⟩ := pipeWrite_cases s <;> rw [h']
  · exact h
  · exact { h with unwritten := .inr (.inl rfl) }
  · exact { h with unwritten := .inr (.inr (.inl rfl)) }

/-- Every small step keeps the invariants of the decoder: in step 2 as a move, else because the agent leaves
the decoder alone, or gives it its reset values. -/
theorem microStep_decoderInv (s t : State) (h : DecoderInv s) (step : microStep s = .next t) :
    DecoderInv t := by
  cases hp : s.pphase with
  | P_IDLE =>
    cases step.symm.trans (coreStep_idle _ hp)
    exact { h with unwritten := .inr (.inr (.inr (h.below_w (by simp [hp])))) }
  | P_LOAD => exact decoderInv_pipeLoad h ((coreStep_load _ hp).symm.trans step)
  | P_DECODE =>
    by_cases halted : s.dphase = .HALT
    · rw [microStep_eq_step (by simp [halted]), step_halt hp halted] at step
      obtain ⟨-, rfl⟩ | ⟨-, -, rfl⟩ := pipeDecoded_next.1 step
      · exact { h with unwritten := .inr (.inr (.inl rfl)) }
      · exact { h with unwritten := .inr (.inr (.inr (h.below_w (by simp [hp])))) }
    · exact (decoderMove_of_microStep hp halted step).decoderInv hp h
  | P_CHECK => exact (checkMove_of_checkStep ((coreStep_check _ hp).symm.trans step)).decoderInv h hp
  | P_PATCH => cases step.symm.trans (coreStep_patch _ hp); exact decoderInv_pipePatch h
  | P_WRITE => cases step.symm.trans (coreStep_write _ hp); exact decoderInv_pipeWrite h
  | P_DONE => cases step.symm.trans (coreStep_ended _ (.inl hp)); exact h
  | P_FAILED => cases step.symm.trans (coreStep_ended _ (.inr hp)); exact h

/-- Settles O47: a whole-run step is small steps, and each of these keeps the invariants. -/
theorem stepsKeepTheDecoderInvariant : Obligations.StepsKeepTheDecoderInvariant :=
  fun _ _ => keeps_of_microStep microStep_decoderInv

end Sys2Proof.Machine
end

section
/-! PROOFS. Every step keeps the invariant of the whole core (10_state.md R34, R35; 44_pipeline.md R160 to
R168). -/

namespace Sys2Proof.Machine

/-! ### What the invariant of the sequencer asks in each phase -/

/-- Before step 2 the decoder has its reset values and the engine is idle. -/
theorem PipelineInv.of_before {s : State} (hp : s.pphase = .P_IDLE ∨ s.pphase = .P_LOAD)
    (pending : fileFits s.cfg s.hostFile = true) (jRange : s.j ≤ 8) (pWidth : s.p < 2 ^ 32)
    (idle : s.cphase = .C_IDLE)
    (fresh : s.dphase = .IDLE ∧ s.cause = .NONE ∧ s.c = 0 ∧ s.w = 0 ∧ s.i = 0) : PipelineInv s := by
  rcases hp with hp | hp <;> constructor <;> simp_all

/-- In step 2 the engine is idle and the decode is on its way. -/
theorem PipelineInv.of_decode {s : State} (hp : s.pphase = .P_DECODE)
    (pending : fileFits s.cfg s.hostFile = true) (jRange : s.j ≤ 8) (pWidth : s.p < 2 ^ 32)
    (idle : s.cphase = .C_IDLE) (decoding : decodeFrom s = bigDecode s.cfg s.N.toNat s.cin.read) :
    PipelineInv s := by
  constructor <;> simp_all

/-- In step 3 the decode is over and the accumulator is on its way. -/
theorem PipelineInv.of_check {s : State} (hp : s.pphase = .P_CHECK)
    (pending : fileFits s.cfg s.hostFile = true) (jRange : s.j ≤ 8)
    (jBit : s.cphase = .C_BIT → s.j ≤ 7 ∧ s.p < s.cfg.L.toNat) (pWidth : s.p < 2 ^ 32)
    (pRange : s.cphase ≠ .C_IDLE → s.p ≤ s.cfg.L.toNat) (sums : accumulated s)
    (decoding : decodeFrom s = bigDecode s.cfg s.N.toNat s.cin.read)
    (decoded : s.dphase = .HALT ∧ s.cause ≠ .OVERRUN) : PipelineInv s := by
  constructor <;> simp_all

/-- In step 4 the checksum has been found correct. -/
theorem PipelineInv.of_patch {s : State} (hp : s.pphase = .P_PATCH)
    (pending : fileFits s.cfg s.hostFile = true) (jRange : s.j ≤ 8) (pWidth : s.p < 2 ^ 32)
    (pRange : s.p ≤ s.cfg.L.toNat) (sums : accumulated s)
    (decoding : decodeFrom s = bigDecode s.cfg s.N.toNat s.cin.read)
    (decoded : s.dphase = .HALT ∧ s.cause ≠ .OVERRUN)
    (checked : s.cphase = .C_DONE ∧ s.crcOk = true ∧ s.crc = s.cfg.CRC_EXPECTED) : PipelineInv s := by
  constructor <;> simp_all

/-- From step 5 on the image to be handed over stands. -/
theorem PipelineInv.of_handed {s : State} (hp : s.pphase = .P_WRITE ∨ s.pphase = .P_DONE)
    (pending : fileFits s.cfg s.hostFile = true) (jRange : s.j ≤ 8) (pWidth : s.p < 2 ^ 32)
    (pRange : s.p ≤ s.cfg.L.toNat) (decoded : s.dphase = .HALT ∧ s.cause ≠ .OVERRUN)
    (checked : s.cphase = .C_DONE ∧ s.crcOk = true ∧ s.crc = s.cfg.CRC_EXPECTED)
    (handed : handedImage s) (done : s.pphase = .P_DONE → s.result = .OK) : PipelineInv s := by
  rcases hp with hp | hp <;> constructor <;> simp_all

/-- A run fails with a reason that holds, and not while the engine is at work. -/
theorem PipelineInv.failRun {s : State} (h : PipelineInv s) (why : RunResult) (fails : why ≠ .OK)
    (quiet : s.cphase ≠ .C_LOAD ∧ s.cphase ≠ .C_BIT)
    (malformed : why = .MALFORMED_INPUT → s.cause = .OVERRUN)
    (mismatch : why = .CHECKSUM_MISMATCH → s.crcOk = false ∧ s.crc ≠ s.cfg.CRC_EXPECTED)
    (refused : why = .PATCH_REFUSED → s.cfg.L.toNat < 16) : PipelineInv (Machine.failRun why s) where
  pending := h.pending
  jRange := h.jRange
  jBit := h.jBit
  pWidth := h.pWidth
  pRange := h.pRange
  engineIdle := by simp
  engineBusy := by simp [quiet]
  sums := by simp
  fresh := by simp
  decoding := by simp
  decoded := by simp
  checked := by simp
  handed := by simp
  done := by simp
  failed _ := fails
  malformed _ := malformed
  mismatch _ := mismatch
  refusedPatch _ := refused

/-! ### The image -/

theorem read_image {s : State} {a : Nat} (ha : a < (image s).length) : (image s)[a] = s.out.read a := by
  simp [image]

/-- Once the decoder has halted, and until the patch, the image is the decoded one. -/
theorem decodedImage_eq_image {s : State} (halted : s.dphase = .HALT) (below : s.out.below s.w = true)
    (decoding : decodeFrom s = bigDecode s.cfg s.N.toNat s.cin.read) : decodedImage s = image s := by
  rw [decodedImage, ← decoding, decodeFrom_halt halted, image]
  exact List.map_congr_left fun a _ => (read_eq_writtenSoFar below a).symm

/-- The patched image is the header and the rest of the image. -/
theorem image_patchHeader {s : State} (hout : s.out.wf = true) (room : 16 ≤ s.cfg.L.toNat) :
    image (patchHeader s) = s.cfg.FIXED_HEADER.toList ++ (image s).drop 16 := by
  have header : s.cfg.FIXED_HEADER.toList.length = 16 := Vector.length_toList
  refine List.ext_getElem ?_ fun a ha hb => ?_
  · simp only [List.length_append, List.length_drop, image_length, header, patchHeader_cfg]
    omega
  · rw [read_image, read_patchHeader hout]
    split_ifs with first
    · rw [List.getElem_append_left (by omega), List.getD_eq_getElem _ _ (by omega)]
    · rw [List.getElem_append_right (by omega), List.getElem_drop, read_image]
      congr 1
      omega

/-! ### The steps -/

theorem pipelineInv_pipeLoad {s t : State} (h : PipelineInv s) (hp : s.pphase = .P_LOAD)
    (step : pipeLoad s = .next t) : PipelineInv t := by
  have idle := h.engineIdle (.inr (.inl hp))
  obtain ⟨-, h'⟩ | ⟨-, h'⟩ | ⟨file, -, -, h'⟩ | ⟨-, h'⟩ := pipeLoad_cases s <;> cases step.symm.trans h'
  · exact h
  · have taken : PipelineInv { s with hostFile := .pending } := { h with pending := rfl }
    exact taken.failRun _ nofun (by simp [idle]) nofun nofun nofun
  · exact .of_decode rfl rfl h.jRange h.pWidth idle (decodeFrom_start rfl ⟨rfl, rfl, rfl⟩)

/-- A move of the decoder leaves the sequencer and the engine as they are, and the decode on its way. -/
theorem DecoderMove.pipelineInv {s t : State} (move : DecoderMove s t) (h : Inv s)
    (hp : s.pphase = .P_DECODE) : PipelineInv t := by
  obtain ⟨decoder, pipeline⟩ := h
  have idle := pipeline.engineIdle (.inr (.inr hp))
  have decoding : decodeFrom t = bigDecode t.cfg t.N.toNat t.cin.read := by
    rw [move.decodeFrom_eq (decoder.onTrack hp), move.cfg_eq, move.N_eq, move.cin_eq]
    exact pipeline.decoding (.inl hp)
  have frame := move.frame
  refine .of_decode (move.pphase_eq.trans hp) ?_ ?_ ?_ ?_ decoding <;> rw [frame]
  · exact pipeline.pending
  · exact pipeline.jRange
  · exact pipeline.pWidth
  · exact idle

theorem pipelineInv_pipeDecoded {s t : State} (h : Inv s) (hp : s.pphase = .P_DECODE)
    (halted : s.dphase = .HALT) (step : pipeDecoded s = .next t) : PipelineInv t := by
  obtain ⟨-, pipeline⟩ := h
  have idle := pipeline.engineIdle (.inr (.inr hp))
  obtain ⟨hcause, rfl⟩ | ⟨notOverrun, -, rfl⟩ := pipeDecoded_next.1 step
  · exact pipeline.failRun _ nofun (by simp [idle]) (fun _ => hcause) nofun nofun
  · exact .of_check rfl pipeline.pending pipeline.jRange pipeline.jBit pipeline.pWidth pipeline.pRange
      (by simp [accumulated, idle]) (pipeline.decoding (.inl hp)) ⟨halted, notOverrun⟩

theorem CheckMove.pipelineInv {s t : State} (move : CheckMove s t) (h : PipelineInv s)
    (hp : s.pphase = .P_CHECK) : PipelineInv t := by
  have sums := move.accumulated (h.sums (.inl hp))
  have decoding := h.decoding (.inr (.inl hp))
  have decoded := h.decoded (.inl hp)
  cases move with
  | start hc =>
    exact .of_check hp h.pending h.jRange nofun (Nat.two_pow_pos 32) (fun _ => Nat.zero_le _) sums decoding
      decoded
  | final hc all =>
    exact .of_check hp h.pending h.jRange nofun h.pWidth (fun _ => le_of_eq all) sums decoding decoded
  | load hc more =>
    exact .of_check hp h.pending (Nat.zero_le 8) (fun _ => ⟨Nat.zero_le 7, more⟩) h.pWidth
      (fun _ => le_of_lt more) sums decoding decoded
  | bit hc notLast =>
    obtain ⟨-, more⟩ := h.jBit hc
    exact .of_check hp h.pending (Nat.succ_le_succ (le_of_lt notLast)) (fun _ => ⟨notLast, more⟩) h.pWidth
      (fun _ => le_of_lt more) sums decoding decoded
  | lastBit hc last =>
    obtain ⟨-, more⟩ := h.jBit hc
    exact .of_check hp h.pending (le_of_eq (congrArg (· + 1) last)) nofun
      (lt_of_le_of_lt more s.cfg.L.isLt) (fun _ => more) sums decoding decoded
  | equal hc hcrc =>
    exact .of_patch rfl h.pending h.jRange h.pWidth (h.pRange (by simp [hc])) sums decoding decoded
      ⟨hc, rfl, hcrc⟩
  | mismatch hc hcrc =>
    have written : PipelineInv { s with crcOk := false } :=
      { h with checked := by simp [hp], mismatch := by simp [hp] }
    exact written.failRun _ nofun (by simp [hc]) nofun (fun _ => ⟨rfl, hcrc⟩) nofun

theorem pipelineInv_pipePatch {s : State} (h : Inv s) (hp : s.pphase = .P_PATCH) :
    PipelineInv (pipePatch s) := by
  obtain ⟨decoder, pipeline⟩ := h
  have decoded := pipeline.decoded (.inr (.inl hp))
  obtain ⟨hc, -, -⟩ := pipeline.checked (.inl hp)
  have pRange := pipeline.pRange (by simp [hc])
  have same : decodedImage s = image s :=
    decodedImage_eq_image decoded.1 (decoder.below_w (by simp [hp])) (pipeline.decoding (.inr (.inr hp)))
  have sum : s.crc = checksum s.cfg (decodedImage s) := by
    rw [same]
    exact (accumulated_done hc).1 (pipeline.sums (.inr hp))
  obtain ⟨-, h'⟩ | ⟨-, h'⟩ | ⟨-, short, h'⟩ | ⟨-, room, h'⟩ := pipePatch_cases s <;> rw [h']
  · exact pipeline
  · exact .of_handed (.inl rfl) pipeline.pending pipeline.jRange pipeline.pWidth pRange decoded
      (pipeline.checked (.inl hp)) ⟨sum, same.symm⟩ nofun
  · have sampled : PipelineInv (samplePatch true s) :=
      { pipeline with handed := by simp [hp] }
    exact sampled.failRun _ nofun (by simp [hc]) nofun nofun fun _ => short
  · have patched : image (patchHeader (samplePatch true s))
        = s.cfg.FIXED_HEADER.toList ++ (decodedImage s).drop 16 := by
      rw [image_patchHeader (s := samplePatch true s) decoder.outWf room, same]
      rfl
    exact .of_handed (.inl rfl) pipeline.pending pipeline.jRange pipeline.pWidth pRange decoded
      (pipeline.checked (.inl hp)) ⟨sum, room, patched⟩ nofun

theorem pipelineInv_pipeWrite {s : State} (h : PipelineInv s) (hp : s.pphase = .P_WRITE) :
    PipelineInv (pipeWrite s) := by
  have checked := h.checked (.inr (.inl hp))
  have hc : s.cphase = .C_DONE := checked.1
  obtain ⟨-, h'⟩ | ⟨-, h'⟩ | ⟨-, h'⟩ := pipeWrite_cases s <;> rw [h']
  · exact h
  · exact .of_handed (.inr rfl) h.pending h.jRange h.pWidth (h.pRange (by simp [hc]))
      (h.decoded (.inr (.inr (.inl hp)))) checked (h.handed (.inl hp)) fun _ => rfl
  · have taken : PipelineInv { s with hostWrite := none } := { h with }
    exact taken.failRun _ nofun (by simp [hc]) nofun nofun nofun

/-- Every small step keeps the invariant of the sequencer and the engine. -/
theorem microStep_pipelineInv {s t : State} (h : Inv s) (step : microStep s = .next t) :
    PipelineInv t := by
  have pipeline := h.pipeline
  cases hp : s.pphase with
  | P_IDLE =>
    cases step.symm.trans (coreStep_idle _ hp)
    exact .of_before (.inr rfl) pipeline.pending pipeline.jRange pipeline.pWidth
      (pipeline.engineIdle (.inl hp)) (pipeline.fresh (.inl hp))
  | P_LOAD => exact pipelineInv_pipeLoad pipeline hp ((coreStep_load _ hp).symm.trans step)
  | P_DECODE =>
    by_cases halted : s.dphase = .HALT
    · rw [microStep_eq_step (by simp [halted]), step_halt hp halted] at step
      exact pipelineInv_pipeDecoded h hp halted step
    · exact (decoderMove_of_microStep hp halted step).pipelineInv h hp
  | P_CHECK =>
    exact (checkMove_of_checkStep ((coreStep_check _ hp).symm.trans step)).pipelineInv pipeline hp
  | P_PATCH => cases step.symm.trans (coreStep_patch _ hp); exact pipelineInv_pipePatch h hp
  | P_WRITE => cases step.symm.trans (coreStep_write _ hp); exact pipelineInv_pipeWrite pipeline hp
  | P_DONE => cases step.symm.trans (coreStep_ended _ (.inl hp)); exact pipeline
  | P_FAILED => cases step.symm.trans (coreStep_ended _ (.inr hp)); exact pipeline

theorem microStep_inv (s t : State) (h : Inv s) (step : microStep s = .next t) : Inv t :=
  ⟨microStep_decoderInv s t h.decoder step, microStep_pipelineInv h step⟩

/-- Settles O48: a whole-run step is small steps, and each of these keeps both halves of the invariant. -/
theorem stepsKeepTheInvariant : Obligations.StepsKeepTheInvariant :=
  fun _ _ => keeps_of_microStep microStep_inv

end Sys2Proof.Machine
end

section
/-! PROOFS. The invariant at reset, under the host's moves and in every reachable state (10_state.md section
2; 60_exceptions.md R193, R196; 70_reset_and_hazards.md R210). -/

namespace Sys2Proof.Machine

/-! ### Reset -/

/-- Settles O46: at reset the decoder has its reset values, and the sequencer is before step 2. -/
theorem resetMeetsTheInvariant : Obligations.ResetMeetsTheInvariant :=
  ⟨.of_reset rfl rfl rfl ⟨rfl, rfl, rfl⟩ ⟨rfl, rfl⟩ rfl rfl,
    .of_before (.inl rfl) rfl (Nat.zero_le 8) (Nat.two_pow_pos 32) rfl ⟨rfl, rfl, rfl, rfl, rfl⟩⟩

/-- The reset event needs only that the stream it keeps is in order. -/
theorem inv_applyReset {s : State} (h : Inv s) : Inv (applyReset s) :=
  ⟨.of_reset h.decoder.cinWf h.decoder.cinBelow rfl ⟨rfl, rfl, rfl⟩ ⟨rfl, rfl⟩ rfl rfl,
    .of_before (.inl rfl) h.pipeline.pending (Nat.zero_le 8) (Nat.two_pow_pos 32) rfl
      ⟨rfl, rfl, rfl, rfl, rfl⟩⟩

/-! ### The host's moves -/

/-- In `P_IDLE` nothing has been written or read, so no register is out of range in another
configuration. -/
theorem inv_configure {s : State} {cfg : Config} (h : Inv s) (hp : s.pphase = .P_IDLE)
    (fits : fileFits cfg s.hostFile = true) : Inv { s with cfg := cfg } := by
  obtain ⟨decoder, pipeline⟩ := h
  obtain ⟨hd, hcause, hc, hw, hi⟩ := pipeline.fresh (.inl hp)
  have empty : s.out = [] := Memory.below_zero (hw ▸ decoder.below_w (by simp [hp]))
  refine ⟨?_, .of_before (.inl hp) fits pipeline.jRange pipeline.pWidth (pipeline.engineIdle (.inl hp))
    ⟨hd, hcause, hc, hw, hi⟩⟩
  exact { decoder with
    outBelow := by rw [empty]; rfl
    wRange := by simp [hw]
    cursor := by simp [cursorBound, hd, hc]
    iCap := by simp [hi]
    full := by simp [hcause], cap := by simp [hcause] }

/-- Settles O49: the law of each move names the field it sets, of which the invariant says that a file fits,
or nothing. -/
theorem hostMovesKeepTheInvariant : Obligations.HostMovesKeepTheInvariant := by
  intro s t move h moved
  cases move with
  | reset => rw [hostMove_reset.1 moved]; exact inv_applyReset h
  | configure cfg =>
    obtain ⟨hp, -, fits, rfl⟩ := hostMove_configure.1 moved
    exact inv_configure h hp fits
  | supplyFile answer =>
    obtain ⟨-, fits, rfl⟩ := hostMove_supplyFile.1 moved
    exact ⟨{ h.decoder with }, { h.pipeline with pending := fits }⟩
  | answerPatch yes =>
    obtain ⟨-, rfl⟩ := hostMove_answerPatch.1 moved
    exact ⟨{ h.decoder with }, { h.pipeline with }⟩
  | reportWrite ok =>
    obtain ⟨-, rfl⟩ := hostMove_reportWrite.1 moved
    exact ⟨{ h.decoder with }, { h.pipeline with }⟩

/-! ### Reachable states -/

/-- Settles O50: the invariant holds at reset, and steps and the host's moves keep it. -/
theorem reachableStatesMeetTheInvariant : Obligations.ReachableStatesMeetTheInvariant := by
  intro s reachable
  induction reachable with
  | reset => exact resetMeetsTheInvariant
  | step s t _ h ih => exact stepsKeepTheInvariant s t ih (.inl h)
  | host s t move _ moved ih => exact hostMovesKeepTheInvariant s t move ih moved

/-- A move of the host leaves a legal configuration legal. -/
theorem hostMove_legal {move : HostMove} {s t : State} (legal : s.cfg.Legal)
    (moved : hostMove move s = some t) : t.cfg.Legal := by
  cases move with
  | reset => rw [hostMove_reset.1 moved]; exact legal
  | configure cfg => obtain ⟨-, set, -, rfl⟩ := hostMove_configure.1 moved; exact set
  | supplyFile answer => obtain ⟨-, -, rfl⟩ := hostMove_supplyFile.1 moved; exact legal
  | answerPatch yes => obtain ⟨-, rfl⟩ := hostMove_answerPatch.1 moved; exact legal
  | reportWrite ok => obtain ⟨-, rfl⟩ := hostMove_reportWrite.1 moved; exact legal

/-- Settles O56: the default configuration is legal, no step writes it, and the host sets only legal
ones. -/
theorem reachableConfigurationsAreLegal : Obligations.ReachableConfigurationsAreLegal := by
  intro s reachable
  induction reachable with
  | reset => exact ⟨by decide, by decide⟩
  | step s t hs h ih =>
    have hout := (reachableStatesMeetTheInvariant s hs).decoder.outWf
    rw [(eachPhaseWritesOnlyWhatItOwns s t hout h).1]
    exact ih
  | host s t move _ moved ih => exact hostMove_legal ih moved

/-! ### No fault, and no overflow -/

theorem Inv.microStep_answers {s : State} (h : Inv s) : ∃ t, microStep s = .next t := by
  obtain ⟨decoder, pipeline⟩ := h
  cases hp : s.pphase with
  | P_IDLE => exact ⟨_, coreStep_idle _ hp⟩
  | P_LOAD =>
    rw [microStep, coreStep_load _ hp]
    obtain ⟨-, h'⟩ | ⟨-, h'⟩ | ⟨file, -, -, h'⟩ | ⟨long, -⟩ := pipeLoad_cases s
    · exact ⟨_, h'⟩
    · exact ⟨_, h'⟩
    · exact ⟨_, h'⟩
    · rw [pipeline.pending] at long; cases long
  | P_DECODE =>
    by_cases halted : s.dphase = .HALT
    · rw [microStep_eq_step (by simp [halted]), step_halt hp halted]
      by_cases hcause : s.cause = .OVERRUN
      · exact ⟨_, pipeDecoded_next.2 (.inl ⟨hcause, rfl⟩)⟩
      · exact ⟨_, pipeDecoded_next.2 (.inr ⟨hcause, decoder.halted.1 halted, rfl⟩)⟩
    · obtain ⟨t, ht, -⟩ := (decoder.onTrack hp).enabled.moves hp halted
      exact ⟨t, ht⟩
  | P_CHECK =>
    rw [microStep, coreStep_check _ hp]
    exact checkStep_answers (fun hc => pipeline.pRange (by simp [hc])) fun hc => (pipeline.jBit hc).1
  | P_PATCH => exact ⟨_, coreStep_patch _ hp⟩
  | P_WRITE => exact ⟨_, coreStep_write _ hp⟩
  | P_DONE => exact ⟨_, coreStep_ended _ (.inl hp)⟩
  | P_FAILED => exact ⟨_, coreStep_ended _ (.inr hp)⟩

/-- Settles O51: in each phase the invariant gives the conditions under which its operation answers; at the
head of the loop the whole run answers in every state. -/
theorem noFaultArises : Obligations.NoFaultArises := by
  refine fun s h => ⟨?_, h.microStep_answers⟩
  by_cases head : s.pphase = .P_DECODE ∧ s.dphase = .TOP
  · rw [step_top head.1 head.2]; exact runTop_answers s
  · rw [← microStep_eq_step head]; exact h.microStep_answers

/-- Settles O52: the state after the step has the invariant, and `L` and `N` are 32-bit words. -/
theorem registersFitTheirWidths : Obligations.RegistersFitTheirWidths := by
  intro s t h step
  obtain ⟨decoder, pipeline⟩ := stepsKeepTheInvariant s t h step
  have hc : t.c < 2 ^ 32 := lt_of_le_of_lt decoder.cRange t.N.isLt
  exact ⟨hc, lt_of_le_of_lt decoder.wRange t.cfg.L.isLt, lt_of_le_of_lt decoder.iRange hc, pipeline.pWidth,
    lt_of_le_of_lt decoder.nRange (by decide), lt_of_le_of_lt decoder.kRange (by decide),
    lt_of_le_of_lt pipeline.jRange (by decide)⟩

end Sys2Proof.Machine
end

section
/-! PROOFS. Every run ends or waits for the host (70_reset_and_hazards.md R222). -/

namespace Sys2Proof.Machine

/-- From this state finitely many steps lead to the end of the run or to a wait for the host. -/
def EndsOrWaits (s : State) : Prop :=
  ∃ m t, runSteps step m s = .next t ∧ (runEnded t = true ∨ waitsForHost t = true)

theorem EndsOrWaits.of_step {s t : State} (h : step s = .next t) (ht : EndsOrWaits t) : EndsOrWaits s := by
  obtain ⟨m, u, run, goal⟩ := ht
  exact ⟨m + 1, u, (runSteps_succ h m).trans run, goal⟩

theorem EndsOrWaits.of_runSteps {m : Nat} {s t : State} (h : runSteps step m s = .next t)
    (ht : EndsOrWaits t) : EndsOrWaits s := by
  induction m generalizing s with
  | zero => cases h; exact ht
  | succ m ih =>
    cases hu : step s with
    | next u => rw [runSteps_succ hu] at h; exact .of_step hu (ih h)
    | fault r => rw [runSteps, hu] at h; cases h
    | refused r => rw [runSteps, hu] at h; cases h

theorem endsOrWaits_ended {s : State} (ended : s.pphase = .P_DONE ∨ s.pphase = .P_FAILED) :
    EndsOrWaits s := ⟨0, s, rfl, .inl (runEnded_true.2 ended)⟩

theorem endsOrWaits_waiting {s : State} (waits : waitsForHost s = true) : EndsOrWaits s :=
  ⟨0, s, rfl, .inr waits⟩

/-! ### Each phase, from the last to the first -/

theorem endsOrWaits_write {s : State} (hp : s.pphase = .P_WRITE) : EndsOrWaits s := by
  have step := step_write hp
  obtain ⟨waits, -⟩ | ⟨-, h'⟩ | ⟨-, h'⟩ := pipeWrite_cases s
  · exact endsOrWaits_waiting (by simp [waitsForHost, hp, waits])
  · rw [h'] at step; exact .of_step step (endsOrWaits_ended (.inl rfl))
  · rw [h'] at step; exact .of_step step (endsOrWaits_ended (.inr rfl))

theorem endsOrWaits_patch {s : State} (hp : s.pphase = .P_PATCH) : EndsOrWaits s := by
  have step := step_patch hp
  obtain ⟨waits, -⟩ | ⟨-, h'⟩ | ⟨-, -, h'⟩ | ⟨-, -, h'⟩ := pipePatch_cases s
  · exact endsOrWaits_waiting (by simp [waitsForHost, hp, waits])
  · rw [h'] at step; exact .of_step step (endsOrWaits_write rfl)
  · rw [h'] at step; exact .of_step step (endsOrWaits_ended (.inr rfl))
  · rw [h'] at step; exact .of_step step (endsOrWaits_write rfl)

theorem endsOrWaits_checked {s : State} (hp : s.pphase = .P_CHECK) (hc : s.cphase = .C_DONE) :
    EndsOrWaits s := by
  have step := step_crcDone hp hc
  obtain ⟨-, h'⟩ | ⟨-, h'⟩ := pipeCheck_cases s
  · rw [h'] at step; exact .of_step step (endsOrWaits_patch rfl)
  · rw [h'] at step; exact .of_step step (endsOrWaits_ended (.inr rfl))

/-- In step 3 the engine counts down to its end. -/
theorem endsOrWaits_check {s : State} (h : Inv s) (hp : s.pphase = .P_CHECK) : EndsOrWaits s := by
  obtain ⟨-, pipeline⟩ := h
  by_cases hc : s.cphase = .C_DONE
  · exact endsOrWaits_checked hp hc
  · have start : EngineRuns s s :=
      ⟨rfl, pipeline.sums (.inl hp), fun hl => pipeline.pRange (by simp [hl]), pipeline.jBit,
        fun done => absurd done hc⟩
    obtain ⟨t, run, ht, none⟩ := runSteps_countdown (fun _ => EngineRuns.descends hp) start
    have phase : t.pphase = .P_CHECK := by rw [ht.frame]; exact hp
    exact .of_runSteps run (endsOrWaits_checked phase (ht.done_of_zero none))

theorem endsOrWaits_decoded {s : State} (h : Inv s) (hp : s.pphase = .P_DECODE) (hd : s.dphase = .HALT) :
    EndsOrWaits s := by
  obtain ⟨t, ht⟩ := (noFaultArises s h).1
  have kept := stepsKeepTheInvariant s t h (.inl ht)
  rw [step_halt hp hd] at ht
  have step := (step_halt hp hd).trans ht
  obtain ⟨-, rfl⟩ | ⟨-, -, rfl⟩ := pipeDecoded_next.1 ht
  · exact .of_step step (endsOrWaits_ended (.inr rfl))
  · exact .of_step step (endsOrWaits_check kept rfl)

/-- A whole-run step lowers the bound on the steps of R12 too. -/
theorem step_stepsLeft_lt {s t : State} (h : Running s) (notHalted : s.dphase ≠ .HALT)
    (ht : step s = .next t) : stepsLeft t < stepsLeft s := by
  by_cases head : s.dphase = .TOP
  · have lower : Running t ∧ (t = s ∨ stepsLeft t < stepsLeft s) := by
      refine keeps_of_decoderMove (P := fun u => Running u ∧ (u = s ∨ stepsLeft u < stepsLeft s))
        (fun u v ⟨hu, le⟩ move => ⟨move.running hu, .inr ?_⟩) h.phase notHalted ⟨h, .inl rfl⟩ ht
      have := move.stepsLeft_lt hu.iterations
      rcases le with rfl | le <;> omega
    rcases lower.2 with rfl | lt
    · rw [step_top h.phase head] at ht
      rcases runTop_progress ht with halt | ⟨-, more⟩
      · exact absurd halt notHalted
      · omega
    · exact lt
  · rw [← microStep_eq_step (by simp [head])] at ht
    exact (decoderMove_of_microStep h.phase notHalted ht).stepsLeft_lt h.iterations

/-- In step 2 every step lowers a bound until the decoder has halted. -/
theorem endsOrWaits_decode {s : State} (h : Inv s) (hp : s.pphase = .P_DECODE) : EndsOrWaits s := by
  have descends : ∀ u, (Inv u ∧ u.pphase = .P_DECODE) → ¬ u.dphase = .HALT →
      ∃ t, step u = .next t ∧ (Inv t ∧ t.pphase = .P_DECODE) ∧ stepsLeft t < stepsLeft u := by
    rintro u ⟨hu, phase⟩ notHalted
    obtain ⟨t, ht⟩ := (noFaultArises u hu).1
    have running : Running u := ⟨phase, (hu.decoder.onTrack phase).enabled, hu.decoder.iRange⟩
    exact ⟨t, ht, ⟨stepsKeepTheInvariant u t hu (.inl ht),
      (step_pphase_of_running phase notHalted ht).trans phase⟩, step_stepsLeft_lt running notHalted ht⟩
  obtain ⟨m, t, -, run, ⟨kept, phase⟩, halted⟩ := runSteps_descent descends ⟨h, hp⟩
  exact .of_runSteps run (endsOrWaits_decoded kept phase halted)

theorem endsOrWaits_load {s : State} (h : Inv s) (hp : s.pphase = .P_LOAD) : EndsOrWaits s := by
  obtain ⟨t, ht⟩ := (noFaultArises s h).1
  have kept := stepsKeepTheInvariant s t h (.inl ht)
  have step := ht
  rw [step_load hp] at ht
  obtain ⟨waits, -⟩ | ⟨-, h'⟩ | ⟨file, -, -, h'⟩ | ⟨-, h'⟩ := pipeLoad_cases s
  · exact endsOrWaits_waiting (by simp [waitsForHost, hp, waits])
  · cases ht.symm.trans h'; exact .of_step step (endsOrWaits_ended (.inr rfl))
  · cases ht.symm.trans h'; exact .of_step step (endsOrWaits_decode kept rfl)
  · cases ht.symm.trans h'

/-- Settles O53: each phase ends its agent's work, and hands on to a later phase, ends the run or waits. -/
theorem everyRunEndsOrWaitsForTheHost : Obligations.EveryRunEndsOrWaitsForTheHost := by
  intro s h
  cases hp : s.pphase with
  | P_IDLE =>
    have step := step_idle hp
    exact EndsOrWaits.of_step step (endsOrWaits_load (stepsKeepTheInvariant s _ h (.inl step)) rfl)
  | P_LOAD => exact endsOrWaits_load h hp
  | P_DECODE => exact endsOrWaits_decode h hp
  | P_CHECK => exact endsOrWaits_check h hp
  | P_PATCH => exact endsOrWaits_patch hp
  | P_WRITE => exact endsOrWaits_write hp
  | P_DONE => exact endsOrWaits_ended (.inl hp)
  | P_FAILED => exact endsOrWaits_ended (.inr hp)

end Sys2Proof.Machine
end

section
/-! PROOFS. What a successful run hands over (60_exceptions.md R196; 44_pipeline.md R165 to R167). -/

namespace Sys2Proof.Machine

theorem getElem?_image {s : State} {a : Nat} (ha : a < s.cfg.L.toNat) :
    (image s)[a]? = some (s.out.read a) := by
  simp [image, ha]

theorem getElem?_decodedImage {s : State} {a : Nat} (ha : a < s.cfg.L.toNat) :
    (decodedImage s)[a]? = some (bigOut (bigDecode s.cfg s.N.toNat s.cin.read) a) := by
  simp [decodedImage, ha]

/-- Of the handed image a byte outside the patch is the decoded one. -/
theorem read_of_handedImage {s : State} (h : handedImage s) {a : Nat} (ha : a < s.cfg.L.toNat)
    (unpatched : ¬ (s.patchReq = true ∧ a < 16)) :
    s.out.read a = bigOut (bigDecode s.cfg s.N.toNat s.cin.read) a := by
  obtain ⟨-, handed⟩ := h
  rw [← Option.some_inj, ← getElem?_image ha, ← getElem?_decodedImage ha]
  split_ifs at handed with patch
  · have beyond : 16 ≤ a := Nat.not_lt.1 fun first => unpatched ⟨patch, first⟩
    rw [handed.2, List.getElem?_append_right (by simpa using beyond), List.getElem?_drop]
    simp [beyond]
  · rw [handed]

/-- Of a patched image the first sixteen bytes are the header, and there are as many. -/
theorem header_of_handedImage {s : State} (h : handedImage s) (patch : s.patchReq = true) :
    16 ≤ s.cfg.L.toNat ∧ ∀ t : Fin 16, s.out.read t = s.cfg.FIXED_HEADER[t] := by
  obtain ⟨-, handed⟩ := h
  rw [if_pos patch] at handed
  obtain ⟨room, eq⟩ := handed
  refine ⟨room, fun t => ?_⟩
  rw [← Option.some_inj, ← getElem?_image (t.isLt.trans_le room), eq,
    List.getElem?_append_left (by simp)]
  simp

/-- Settles O54: the invariant says that the run ended with `OK`, that the checksum was found to be the
expected one, and which image stands to be handed over. -/
theorem successfulRunHandsOverACheckedImage : Obligations.SuccessfulRunHandsOverACheckedImage := by
  intro s h hp
  obtain ⟨-, pipeline⟩ := h
  have ok := pipeline.done hp
  have handed := pipeline.handed (.inr hp)
  obtain ⟨-, -, expected⟩ := pipeline.checked (.inr (.inr hp))
  exact ⟨ok, (exitCodeTellsOnlySuccess s (.inl hp)).1 ok, if_pos (.inr hp), image_length s,
    handed.1.symm.trans expected, fun _ => read_of_handedImage handed, header_of_handedImage handed⟩

end Sys2Proof.Machine
end
